-- ==== Sys2Proof/Word.lean ====
section
/-! DEFINITION. The two word types of MHM32: 32-bit words (registers, addresses, command words; spec/00_scope.md R6, R8)
and the bytes of the input view (spec/20_memory.md R60). Addition, multiplication and the logical shifts of `BitVec 32`
are those of spec/00_scope.md R9: results mod 2^32, zero-filling shifts. -/

namespace Sys2Proof

/-- A 32-bit value: a register, an input-view address or a command word (R6, R8). -/
abbrev Word := BitVec 32

/-- One byte of the input view (R60). -/
abbrev Byte := BitVec 8

end Sys2Proof
end

