-- ==== Sys2Proof/Syntax.lean ====
section
/-! DEFINITION. The commands of MHM32, one constructor per row of spec/opcode_table.json (spec/30_encoding.md R83).
No command has an operand field but HASH, whose L bit selects the lane mixer (R81, R82). -/

namespace Sys2Proof

/-- A command (R83). -/
inductive Instr where
  /-- NOP, no operation (R100). -/
  | nop
  /-- INIT, start a hash (R101). -/
  | init
  /-- CHUNK, fold one 4-byte group (R113). -/
  | chunk
  /-- LANE4, fold one 16-byte block through the lane mixer (R151). -/
  | lane4
  /-- TAIL, fold the last 0 to 3 bytes (R132). -/
  | tail
  /-- FINAL, length XOR and avalanche (R141). -/
  | final
  /-- HASH, the whole hash; `l` is the L bit (R161). -/
  | hash (l : Bool)
deriving DecidableEq, Repr

end Sys2Proof
end

