-- ==== Sys2Proof/Config.lean ====
section
/-! DEFINITION. The implementation parameters of spec/00_scope.md R6 that are not fixed numbers. They are plain data in
State (`State.cfg`), read by the step and written by nothing, so that every statement holds for each value of them.
The third open parameter, VIEW, is `State.view`. -/

namespace Sys2Proof

/-- The parameters of one MHM32 (R6). -/
structure Config where
  /-- HAS_LANES: whether LANE4 and HASH with L = 1 exist (R6, R154). -/
  hasLanes : Bool
  /-- MHM_BASE: the window's first address in the host's address space, OPEN (R6, R70). The spec gives the host's
  address space no width, so host addresses are natural numbers (assumption 3). -/
  mhmBase : Nat
deriving DecidableEq, Repr

/-- HAS_LANES at the spec's default (R6: "default true"). DESIGN CHOICE (assumption 3), unsafe: MHM_BASE is OPEN, and 0 only
serves to have one concrete reset state. -/
def Config.default : Config where
  hasLanes := true
  mhmBase := 0

end Sys2Proof
end

