-- ==== Sys2Proof/WellFormed.lean ====
section
/-! DEFINITION. Which commands exist on an MHM32 with given HAS_LANES: LANE4 and HASH with L = 1 need the lane mixer
(spec/30_encoding.md R83, R85 (d); spec/44_lane.md R154). No other command has a field that could be ill-formed. -/

namespace Sys2Proof

/-- The commands that exist when HAS_LANES is `hasLanes` (R83, R154). -/
def Instr.wellFormed (hasLanes : Bool) : Instr → Bool
  | .nop => true
  | .init => true
  | .chunk => true
  | .lane4 => hasLanes
  | .tail => true
  | .final => true
  | .hash l => !l || hasLanes

end Sys2Proof
end

