-- ==== Sys2Proof/Decode.lean ====
section
/-! DEFINITION. Decoding a word written to CMD (spec/30_encoding.md R84), total on all 2^32 words and rejecting by
name, and the encoder written from the opcode map (R83). A command is exactly one 32-bit word (R80), moved whole, so no
byte order applies to it (spec/20_memory.md R65, R69). -/

namespace Sys2Proof

/-- Why a word is no command: the four cases of spec/30_encoding.md R85. All raise the one error ILLEGAL_CMD. -/
inductive Illegal where
  /-- (a) a bit of RSV, bits [31:5], is set. -/
  | reservedBits
  /-- (b) OP is 0x7 to 0xF. -/
  | undefinedOp
  /-- (c) L = 1 with an OP other than HASH. -/
  | laneBitOutsideHash
  /-- (d) LANE4 or HASH with L = 1 while HAS_LANES is false. -/
  | lanesAbsent
deriving DecidableEq, Repr

/-- Field OP, bits [3:0] (R81). -/
def fieldOp (w : Word) : BitVec 4 := w.extractLsb' 0 4

/-- Field L, bit 4 (R81). -/
def fieldL (w : Word) : Bool := w.getLsbD 4

/-- Field RSV, bits [31:5] (R81). -/
def fieldRsv (w : Word) : BitVec 27 := w.extractLsb' 5 27

/-- The command an OP and an L bit name, HAS_LANES aside (the opcode map, R83). -/
def opcodeMap (op : BitVec 4) (l : Bool) : Except Illegal Instr :=
  if op = 0x6#4 then .ok (.hash l)
  else if 0x7#4 ≤ op then .error .undefinedOp
  else if l then .error .laneBitOutsideHash
  else if op = 0x0#4 then .ok .nop
  else if op = 0x1#4 then .ok .init
  else if op = 0x2#4 then .ok .chunk
  else if op = 0x3#4 then .ok .lane4
  else if op = 0x4#4 then .ok .tail
  else .ok .final

/-- R84: the command a word is, or the reason it is none. -/
def decode (hasLanes : Bool) (w : Word) : Except Illegal Instr :=
  if fieldRsv w ≠ 0#27 then .error .reservedBits
  else
    match opcodeMap (fieldOp w) (fieldL w) with
    | .error e => .error e
    | .ok i => if i.wellFormed hasLanes then .ok i else .error .lanesAbsent

/-- The command word of a command (R83's column `match`; HASH with L = 1 is 0x0000_0016). -/
def encode : Instr → Word
  | .nop => 0x00000000#32
  | .init => 0x00000001#32
  | .chunk => 0x00000002#32
  | .lane4 => 0x00000003#32
  | .tail => 0x00000004#32
  | .final => 0x00000005#32
  | .hash false => 0x00000006#32
  | .hash true => 0x00000016#32

/-- The word the table numbers `w` in `nbits` bits; bits above `nbits` are 0 (assumption 11). -/
def tableWord (nbits w : Nat) : Word := BitVec.ofNat 32 (w % 2 ^ nbits)

/-- What the decoder reads from an instruction of `nbits` bits whose bits are `w`, on an MHM32 with the lane mixer (R6's
default). A command has exactly 32 bits (R80), so a longer one is none. -/
def decodeTableWord (nbits w : Nat) : Option Instr :=
  if nbits ≤ 32 then
    match decode true (tableWord nbits w) with
    | .ok i => some i
    | .error _ => none
  else none

/-! Each row of R83 written out bit by bit as RSV, L, OP. -/

theorem decode_word_nop : decode true 0b000000000000000000000000000_0_0000#32 = .ok .nop := by decide
theorem decode_word_init : decode true 0b000000000000000000000000000_0_0001#32 = .ok .init := by decide
theorem decode_word_chunk : decode true 0b000000000000000000000000000_0_0010#32 = .ok .chunk := by decide
theorem decode_word_lane4 : decode true 0b000000000000000000000000000_0_0011#32 = .ok .lane4 := by decide
theorem decode_word_tail : decode true 0b000000000000000000000000000_0_0100#32 = .ok .tail := by decide
theorem decode_word_final : decode true 0b000000000000000000000000000_0_0101#32 = .ok .final := by decide
theorem decode_word_hash : decode true 0b000000000000000000000000000_0_0110#32 = .ok (.hash false) := by decide
theorem decode_word_hash_lanes : decode true 0b000000000000000000000000000_1_0110#32 = .ok (.hash true) := by decide

end Sys2Proof
end

