-- ==== Sys2Proof/Machine/State.lean ====
section
/-! DEFINITION. The state of MHM32 (spec/10_state.md), as plain data: the registers of the window, the controller's phase
and error record, the lane registers, the input view, the reset input, the parameters, and the moves the host has still
to make. -/

namespace Sys2Proof.Machine

/-- The controller phase (R24). -/
inductive Phase where
  /-- No hash begun since reset. -/
  | idle
  /-- INIT done; complete groups may be folded. -/
  | body
  /-- The tail step is done; only FINAL may follow. -/
  | tailed
  /-- FINAL done; RESULT holds the output. -/
  | done
deriving DecidableEq, Repr

/-- The values ERRCODE takes (spec/60_exceptions.md R180). Codes 6 to 15 are never produced and have no constructor
(assumption 14). -/
inductive ErrCode where
  /-- 0, no error recorded. -/
  | none
  /-- 1, a CMD word that is not a command (R181). -/
  | illegalCmd
  /-- 2, a command not allowed in the current phase, or TAIL before the body is finished (R182). -/
  | sequence
  /-- 3, a group or block would pass the last input byte (R183). -/
  | bounds
  /-- 4, an input byte the command must read is unreadable (R184). -/
  | viewFault
  /-- 5, a write to SEED, LEN or BASE during a hash (R185). -/
  | configLocked
deriving DecidableEq, Repr

/-- The input view: the readable addresses and their bytes, in rising order of address; an address that is not listed is
unreadable (spec/20_memory.md R60, R61; assumption 1). -/
abbrev Memory := List Host.Cell

/-- What the world outside the block can do to it, one step each (R20, R60, R210). -/
inductive HostMove where
  /-- A bus read of `size` bytes at host address `addr`. -/
  | read (addr size : Nat)
  /-- A bus write of `size` bytes at host address `addr`; `v` is the word a 4-byte write carries. -/
  | write (addr size : Nat) (v : Word)
  /-- The platform asserts the reset input (R210). -/
  | assertReset
  /-- The platform releases the reset input. -/
  | releaseReset
  /-- The agent that owns the input memory makes the view at address `a` hold `b`, or makes it unreadable (R60, R74). -/
  | setView (a : Word) (b : Option Byte)
deriving DecidableEq, Repr

/-- Why a step stops the machine with a fault. -/
inductive Fault where
  /-- A move changes a byte of the input while a hash is in progress. Raised by `setView`. The spec gives the machine no move
  for it (spec/20_memory.md R74, spec/70_reset_and_hazards.md R214). Safe: the model stops where hardware would go on. -/
  | viewRace
deriving DecidableEq, Repr

/-- Why a step has no meaning. -/
inductive Refusal where
  /-- An instruction that has no meaning yet; raised by the dispatch only. Safe. -/
  | notModelled (mnemonic : String)
  /-- A host access while reset is asserted (R212). Raised by reads and writes. Safe. -/
  | accessDuringReset
  /-- A host access outside offsets 0x00 to 0x3F of the window, so not an access to MHM32 (R37). Raised by reads and writes.
  Safe. -/
  | outsideWindow
  /-- A host access that is not 32 bits wide (R39). Raised by reads and writes. Safe. -/
  | accessSize
  /-- A 32-bit host access at an offset that is no multiple of 4 (R39). Raised by reads and writes. Safe. -/
  | misaligned
deriving DecidableEq, Repr

/-- The state of MHM32 and of what reaches it. STATUS is composed from `phase`, `err` and `errCode` (R23), and CMD has no
storage (R22). -/
@[ext]
structure State where
  /-- The parameters HAS_LANES and MHM_BASE (R6). -/
  cfg : Config
  /-- The parameter VIEW (R6, R60). -/
  view : Memory
  /-- PHASE (R24). -/
  phase : Phase
  /-- ERR (R23, R186). -/
  err : Bool
  /-- ERRCODE (R23, R180). -/
  errCode : ErrCode
  /-- ERRINFO (R35). -/
  errInfo : Word
  /-- ERRADDR (R36). -/
  errAddr : Word
  /-- SEED (R25). -/
  seed : Word
  /-- LEN (R26). -/
  len : Word
  /-- BASE (R27). -/
  base : Word
  /-- OFF (R29). -/
  off : Word
  /-- H (R30). -/
  h : Word
  /-- K (R31). -/
  k : Word
  /-- M (R32). -/
  m : Word
  /-- RESULT (R34). -/
  result : Word
  /-- LANE[0] (R33). -/
  lane0 : Word
  /-- LANE[1] (R33). -/
  lane1 : Word
  /-- LANE[2] (R33). -/
  lane2 : Word
  /-- LANE[3] (R33). -/
  lane3 : Word
  /-- Whether the reset input is asserted (R210, R212). -/
  inReset : Bool
  /-- The model's own: the moves still to be made, the next first (R73; assumption 4). -/
  pending : List HostMove
  /-- The model's own: what the latest host read returned, if there was one (R38; assumption 5). -/
  readData : Option Word
deriving DecidableEq, Repr

/-- The machine right after reset: every register 0, PHASE = IDLE, ERR = 0, ERRCODE = 0 (R210). The reset values of the
parameters, of the view and of the model's own fields are DESIGN CHOICE (assumptions 1, 3, 4, 5), unsafe where a statement
would rest on one. -/
def State.reset : State where
  cfg := Config.default
  view := []
  phase := .idle
  err := false
  errCode := .none
  errInfo := 0#32
  errAddr := 0#32
  seed := 0#32
  len := 0#32
  base := 0#32
  off := 0#32
  h := 0#32
  k := 0#32
  m := 0#32
  result := 0#32
  lane0 := 0#32
  lane1 := 0#32
  lane2 := 0#32
  lane3 := 0#32
  inReset := false
  pending := []
  readData := none

end Sys2Proof.Machine
end

