-- ==== Sys2Proof/Machine/Flags.lean ====
section
/-! DEFINITION. The status bits: the encodings of PHASE (spec/10_state.md R24) and ERRCODE (spec/60_exceptions.md R180),
and STATUS, composed of them (R23). MHM32 has no other flag (R43). -/

namespace Sys2Proof.Machine

/-- The 2-bit encoding of PHASE (R24). -/
def Phase.bits : Phase → BitVec 2
  | .idle => 0#2
  | .body => 1#2
  | .tailed => 2#2
  | .done => 3#2

/-- The 4-bit error code (R180). -/
def ErrCode.bits : ErrCode → BitVec 4
  | .none => 0#4
  | .illegalCmd => 1#4
  | .sequence => 2#4
  | .bounds => 3#4
  | .viewFault => 4#4
  | .configLocked => 5#4

/-- STATUS (R23): PHASE in [1:0], ERR in [2], ERRCODE in [7:4], the other bits hardwired 0. -/
def status (s : State) : Word :=
  s.errCode.bits.setWidth 32 <<< 4 ||| (BitVec.ofBool s.err).setWidth 32 <<< 2 ||| s.phase.bits.setWidth 32

end Sys2Proof.Machine
end

