-- ==== Sys2Proof/Machine/Mixing.lean ====
section
/-! DEFINITION. The pure functions of the four datapath units: rotation (spec/00_scope.md R10), composition, mixing and
folding (spec/41_chunk.md R110-R112), tail composition (spec/42_tail.md R130) and the avalanche (spec/43_final.md R140).
The constants are those of spec/00_scope.md R7. -/

namespace Sys2Proof.Machine

/-- Mixing multiplier c1 (R7). -/
def c1 : Word := 0xcc9e2d51#32
/-- Mixing multiplier c2 (R7). -/
def c2 : Word := 0x1b873593#32
/-- Combine multiplier m (R7). -/
def combineMul : Word := 5#32
/-- Combine addend n (R7). -/
def combineAdd : Word := 0xe6546b64#32
/-- Finalization multiplier f1 (R7). -/
def f1 : Word := 0x85ebca6b#32
/-- Finalization multiplier f2 (R7). -/
def f2 : Word := 0xc2b2ae35#32

/-- R10, for r in 1..31. PRESUMED (assumption 10): the spec marks this definition as general knowledge. -/
def rotl (x : Word) (r : Nat) : Word := (x <<< r) ||| (x >>> (32 - r))

/-- R110: little-endian composition, `b0` at the lowest offset. -/
def le32 (b0 b1 b2 b3 : Byte) : Word :=
  b0.setWidth 32 ||| b1.setWidth 32 <<< 8 ||| b2.setWidth 32 <<< 16 ||| b3.setWidth 32 <<< 24

/-- R111: the mixing step, steps 2b to 2d. -/
def mixK (k : Word) : Word := rotl (k * c1) 15 * c2

/-- R112: the fold of a mixed chunk into the accumulator, steps 2e to 2g. -/
def foldH (h k : Word) : Word := rotl (h ^^^ k) 13 * combineMul + combineAdd

/-- R130: the tail composition for `rem` bytes, `t0` at the lowest offset. -/
def tailK (rem : Nat) (t0 t1 t2 : Byte) : Word :=
  (if 3 ≤ rem then t2.setWidth 32 <<< 16 else 0#32) ||| (if 2 ≤ rem then t1.setWidth 32 <<< 8 else 0#32) |||
    t0.setWidth 32

/-- Stages 1 and 5 (shift 16) and stage 3 (shift 13) of the avalanche (R140). -/
def xorShift (h : Word) (s : Nat) : Word := h ^^^ (h >>> s)

/-- R140: the avalanche. -/
def fmix (h : Word) : Word := xorShift (xorShift (xorShift h 16 * f1) 13 * f2) 16

end Sys2Proof.Machine
end

