-- ==== Sys2Proof/Machine/Ops.lean ====
section
/-! DEFINITION. The named operations over the input view and the registers: reading and changing the view
(spec/20_memory.md R60, R61, R74), recording and clearing an error (spec/60_exceptions.md R186, R190), the configuration
lock (spec/10_state.md R28), and the registers at reset (spec/70_reset_and_hazards.md R210). -/

namespace Sys2Proof.Machine

/-! ## The input view -/

/-- The canonical form: addresses strictly rising and below 2^32. An unlisted address reads as unreadable, which no entry
holds, so equal views are equal lists. -/
def Memory.wf (v : Memory) : Bool := decide (v.Pairwise (fun x y => x.1 < y.1)) && v.all (fun x => x.1 < 2 ^ 32)

/-- The byte listed under key `a`. -/
def Memory.lookupKey : Memory → Nat → Option Byte
  | [], _ => none
  | (c, b) :: rest, a => if c = a then some b else Memory.lookupKey rest a

/-- `MemRead(addr, 1)` (R61): the byte, or `none` for the outcome `unreadable`. -/
def Memory.read (v : Memory) (a : Word) : Option Byte := Memory.lookupKey v a.toNat

/-- List byte `b` under key `a`, keeping the order. -/
def Memory.insertKey : Memory → Nat → Byte → Memory
  | [], a, b => [(a, b)]
  | (c, x) :: rest, a, b =>
    if a < c then (a, b) :: (c, x) :: rest
    else if a = c then (a, b) :: rest
    else (c, x) :: Memory.insertKey rest a b

/-- Make address `a` hold `b`, or make it unreadable. -/
def Memory.set (v : Memory) (a : Word) : Option Byte → Memory
  | some b => Memory.insertKey v a.toNat b
  | none => v.filter (fun x => x.1 ≠ a.toNat)

/-! ## Errors -/

/-- An error a command or a host write raises, with the values R186 records. -/
structure Raised where
  code : ErrCode
  info : Word
  addr : Word
deriving DecidableEq, Repr

/-- R186, the one operation that takes MHM32's "exception": the first error is kept, and nothing else changes. -/
def raiseError (r : Raised) (s : State) : State :=
  if s.err then s else { s with err := true, errCode := r.code, errInfo := r.info, errAddr := r.addr }

/-- R190, the return from an error: the error record is cleared. INIT and HASH use it. -/
def clearError (s : State) : State :=
  { s with err := false, errCode := .none, errInfo := 0#32, errAddr := 0#32 }

/-- Whether a hash is in progress: ERR = 0 and PHASE is BODY or TAILED. Configuration is then locked (R28, R185) and the
input bytes must not change (R74; assumption 7). -/
def hashInProgress (s : State) : Bool := !s.err && (s.phase == .body || s.phase == .tailed)

/-- Perform the body of a command: its effects, or the error it raises and nothing else (R187). `Except.error` says that
the command, or the HASH it is a sub-step of, ends here. -/
def perform (body : State → Except Raised State) (s : State) : Except State State :=
  match body s with
  | .ok t => .ok t
  | .error r => .error (raiseError r s)

/-- The state a command ends in, whether or not it raised an error. -/
def endState : Except State State → State
  | .ok t => t
  | .error t => t

/-- A command that is ignored while an error is recorded (R84, R188): CHUNK, LANE4, TAIL and FINAL. -/
def runUnlessErr (body : State → Except Raised State) (s : State) : Host.Outcome State Fault Refusal :=
  if s.err then .next s else .next (endState (perform body s))

/-! ## Reset -/

/-- Every register at its reset value (R210). The parameters, the view, the reset input and the model's own fields are no
registers and stay. -/
def resetRegisters (s : State) : State :=
  { s with
    seed := 0#32, len := 0#32, base := 0#32, off := 0#32, h := 0#32, k := 0#32, m := 0#32, result := 0#32,
    lane0 := 0#32, lane1 := 0#32, lane2 := 0#32, lane3 := 0#32,
    phase := .idle, err := false, errCode := .none, errInfo := 0#32, errAddr := 0#32 }

end Sys2Proof.Machine
end

