-- ==== Sys2Proof/Machine/Operands.lean ====
section
/-! DEFINITION. The operands of the commands, all implicit (spec/30_encoding.md R82): the input bytes at the current
position (spec/20_memory.md R62, R64, R65) and the registers of the window by offset (spec/10_state.md R21). -/

namespace Sys2Proof.Machine

/-! ## Input bytes -/

/-- LEN - OFF on mathematical integers (R11). Below zero, which only a state outside R42's invariant gives where it is
used, it is 0 (assumption 9). -/
def remaining (s : State) : Nat := s.len.toNat - s.off.toNat

/-- The address of the byte `j` places after the current position: (BASE + OFF + j) mod 2^32 (R62). -/
def inputAddr (s : State) (j : Nat) : Word := s.base + s.off + BitVec.ofNat 32 j

/-- One byte at the current position plus `j`, or the address found unreadable (R61, R184). -/
def readByte (s : State) (j : Nat) : Except Word Byte :=
  match s.view.read (inputAddr s j) with
  | some b => .ok b
  | none => .error (inputAddr s j)

/-- The 4-byte group at the current position plus `j`, read in ascending offset order (R65, R113 step 2a), or the address
of the first unreadable byte. -/
def readGroup (s : State) (j : Nat) : Except Word Word := do
  let b0 ← readByte s j
  let b1 ← readByte s (j + 1)
  let b2 ← readByte s (j + 2)
  let b3 ← readByte s (j + 3)
  .ok (le32 b0 b1 b2 b3)

/-- Tail byte `j` of `rem`: read when there is one; a byte at or past `rem` is not read, and `tailK` does not use it
(R132: "t[j] for j >= rem is unused"). -/
def readTailByte (s : State) (rem j : Nat) : Except Word Byte := if j < rem then readByte s j else .ok 0#8

/-- The `rem` tail bytes at the current position, read in ascending offset order and composed (R130, R132), or the address
of the first unreadable byte. -/
def readTail (s : State) (rem : Nat) : Except Word Word := do
  let t0 ← readTailByte s rem 0
  let t1 ← readTailByte s rem 1
  let t2 ← readTailByte s rem 2
  .ok (tailK rem t0 t1 t2)

/-! ## The register window -/

/-- The sixteen registers of the window (R21). -/
inductive WindowReg where
  | cmd | status | seed | len | base | off | h | k | m | result | errInfo | errAddr | lane0 | lane1 | lane2 | lane3
deriving DecidableEq, Repr

/-- The register at a word-aligned offset (R21); every word of the window is named, and there is no other (R37). -/
def windowReg : Nat → Option WindowReg
  | 0x00 => some .cmd
  | 0x04 => some .status
  | 0x08 => some .seed
  | 0x0C => some .len
  | 0x10 => some .base
  | 0x14 => some .off
  | 0x18 => some .h
  | 0x1C => some .k
  | 0x20 => some .m
  | 0x24 => some .result
  | 0x28 => some .errInfo
  | 0x2C => some .errAddr
  | 0x30 => some .lane0
  | 0x34 => some .lane1
  | 0x38 => some .lane2
  | 0x3C => some .lane3
  | _ => none

/-- What a host read of a register returns (R38); CMD reads 0 (R22). -/
def readReg (s : State) : WindowReg → Word
  | .cmd => 0#32
  | .status => status s
  | .seed => s.seed
  | .len => s.len
  | .base => s.base
  | .off => s.off
  | .h => s.h
  | .k => s.k
  | .m => s.m
  | .result => s.result
  | .errInfo => s.errInfo
  | .errAddr => s.errAddr
  | .lane0 => s.lane0
  | .lane1 => s.lane1
  | .lane2 => s.lane2
  | .lane3 => s.lane3

end Sys2Proof.Machine
end

