-- ==== Sys2Proof/Machine/Chunk.lean ====
section
/-! DEFINITION. The chunk processor and the CHUNK command (spec/41_chunk.md R113). -/

namespace Sys2Proof.Machine

/-- What CHUNK writes once its group `k` is read (R113, steps 2a to 2g). -/
def foldGroup (k : Word) (s : State) : State :=
  { s with k := k, m := mixK k, h := foldH s.h (mixK k), off := s.off + 4#32 }

/-- The body of CHUNK with command word `w` (R113), its checks in the order of R189. -/
def chunkBody (w : Word) (s : State) : Except Raised State :=
  if s.phase ≠ .body then .error ⟨.sequence, w, 0#32⟩
  else if remaining s < 4 then .error ⟨.bounds, w, 0#32⟩
  else
    match readGroup s 0 with
    | .error a => .error ⟨.viewFault, w, a⟩
    | .ok k => .ok (foldGroup k s)

/-- R113. -/
def execChunk (s : State) : Host.Outcome State Fault Refusal := runUnlessErr (chunkBody (encode .chunk)) s

end Sys2Proof.Machine
end

