-- ==== Sys2Proof/Machine/Control.lean ====
section
/-! DEFINITION. The control commands NOP and INIT (spec/40_control.md). -/

namespace Sys2Proof.Machine

/-- R100: NOP changes nothing, in every phase and with ERR 0 or 1. -/
def execNop (s : State) : Host.Outcome State Fault Refusal := .next s

/-- The effect of INIT (R101), which HASH begins with (R161). SEED, LEN and BASE stay. -/
def startHash (s : State) : State :=
  { clearError s with
    h := s.seed, off := 0#32, k := 0#32, m := 0#32,
    lane0 := 0#32, lane1 := 0#32, lane2 := 0#32, lane3 := 0#32, result := 0#32, phase := .body }

/-- R101: INIT acts in every phase and with ERR 0 or 1. -/
def execInit (s : State) : Host.Outcome State Fault Refusal := .next (startHash s)

end Sys2Proof.Machine
end

