-- ==== Sys2Proof/Machine/Final.lean ====
section
/-! DEFINITION. The finalization avalanche pipeline and the FINAL command (spec/43_final.md R141). -/

namespace Sys2Proof.Machine

/-- What FINAL writes (R141, steps 4 to 6). -/
def finishHash (s : State) : State :=
  { s with h := fmix (s.h ^^^ s.len), result := fmix (s.h ^^^ s.len), phase := .done }

/-- The body of FINAL with command word `w` (R141). -/
def finalBody (w : Word) (s : State) : Except Raised State :=
  if s.phase ≠ .tailed then .error ⟨.sequence, w, 0#32⟩ else .ok (finishHash s)

/-- R141. -/
def execFinal (s : State) : Host.Outcome State Fault Refusal := runUnlessErr (finalBody (encode .final)) s

end Sys2Proof.Machine
end

