-- ==== Sys2Proof/Machine/Lane.lean ====
section
/-! DEFINITION. The lane mixer and the LANE4 command (spec/44_lane.md R150, R151). That LANE4 exists only with HAS_LANES
(R154) is the decoder's check (`decode`; assumption 8). -/

namespace Sys2Proof.Machine

/-- The four groups of a 16-byte block (R150). -/
structure Block where
  g0 : Word
  g1 : Word
  g2 : Word
  g3 : Word
deriving DecidableEq, Repr

/-- The block at the current position, read in ascending offset order, or the address of its first unreadable byte. -/
def readBlock (s : State) : Except Word Block := do
  let g0 ← readGroup s 0
  let g1 ← readGroup s 4
  let g2 ← readGroup s 8
  let g3 ← readGroup s 12
  .ok ⟨g0, g1, g2, g3⟩

/-- The serial fold of the four mixed lanes, lane 0 first (R150, R151, R153). -/
def foldLanes (h : Word) (b : Block) : Word :=
  foldH (foldH (foldH (foldH h (mixK b.g0)) (mixK b.g1)) (mixK b.g2)) (mixK b.g3)

/-- What LANE4 writes once its block is read (R151). -/
def foldBlock (b : Block) (s : State) : State :=
  { s with
    lane0 := mixK b.g0, lane1 := mixK b.g1, lane2 := mixK b.g2, lane3 := mixK b.g3,
    k := b.g3, m := mixK b.g3, h := foldLanes s.h b, off := s.off + 16#32 }

/-- The body of LANE4 with command word `w` (R151), its checks in the order of R189. -/
def lane4Body (w : Word) (s : State) : Except Raised State :=
  if s.phase ≠ .body then .error ⟨.sequence, w, 0#32⟩
  else if remaining s < 16 then .error ⟨.bounds, w, 0#32⟩
  else
    match readBlock s with
    | .error a => .error ⟨.viewFault, w, a⟩
    | .ok b => .ok (foldBlock b s)

/-- R151. -/
def execLane4 (s : State) : Host.Outcome State Fault Refusal := runUnlessErr (lane4Body (encode .lane4)) s

end Sys2Proof.Machine
end

