-- ==== Sys2Proof/Machine/Tail.lean ====
section
/-! DEFINITION. The tail processor and the TAIL command (spec/42_tail.md R131, R132). -/

namespace Sys2Proof.Machine

/-- TAIL with no byte left changes PHASE only (R132). -/
def closeBody (s : State) : State := { s with phase := .tailed }

/-- What TAIL writes once its 1 to 3 bytes are composed to `k2` (R131, R132): no rotate and no multiply-add. -/
def foldTail (k2 : Word) (s : State) : State :=
  { s with k := k2, m := mixK k2, h := s.h ^^^ mixK k2, off := s.len, phase := .tailed }

/-- The body of TAIL with command word `w` (R132). -/
def tailBody (w : Word) (s : State) : Except Raised State :=
  if s.phase ≠ .body then .error ⟨.sequence, w, 0#32⟩
  else if 4 ≤ remaining s then .error ⟨.sequence, w, 0#32⟩
  else if remaining s = 0 then .ok (closeBody s)
  else
    match readTail s (remaining s) with
    | .error a => .error ⟨.viewFault, w, a⟩
    | .ok k2 => .ok (foldTail k2 s)

/-- R132. -/
def execTail (s : State) : Host.Outcome State Fault Refusal := runUnlessErr (tailBody (encode .tail)) s

end Sys2Proof.Machine
end

