-- ==== Sys2Proof/Machine/Sequencer.lean ====
section
/-! DEFINITION. The HASH sequencer (spec/45_sequencer.md R161): INIT, then LANE4 while a block remains (L = 1), CHUNK while
a group remains, TAIL and FINAL, each with HASH's own word, stopping at the first error. -/

namespace Sys2Proof.Machine

/-- `while LEN - OFF >= size: perform body; if it raised an error then stop` (R161), at most `fuel` rounds. -/
def whileRemaining (size : Nat) (body : State → Except Raised State) : Nat → State → Except State State
  | 0, s => .ok s
  | fuel + 1, s =>
    if size ≤ remaining s then
      match perform body s with
      | .ok t => whileRemaining size body fuel t
      | .error t => .error t
    else .ok s

/-- The loop of R161 run to its end: each round consumes `size` bytes, so `remaining / size` rounds are all there are
(assumption 9). -/
def consumeAll (size : Nat) (body : State → Except Raised State) (s : State) : Except State State :=
  whileRemaining size body (remaining s / size) s

/-- The LANE4 loop of R161, there only when L = 1. -/
def laneSteps (l : Bool) (w : Word) (s : State) : Except State State :=
  if l then consumeAll 16 (lane4Body w) s else .ok s

/-- HASH after its INIT, with L bit `l` and command word `w` (R161). -/
def hashSteps (l : Bool) (w : Word) (s : State) : Except State State := do
  let s ← laneSteps l w s
  let s ← consumeAll 4 (chunkBody w) s
  let s ← perform (tailBody w) s
  perform (finalBody w) s

/-- R161: HASH acts in every phase and with ERR 0 or 1. -/
def execHash (l : Bool) (s : State) : Host.Outcome State Fault Refusal :=
  .next (endState (hashSteps l (encode (.hash l)) (startHash s)))

end Sys2Proof.Machine
end

