-- ==== Sys2Proof/Machine/Dispatch.lean ====
section
/-! DEFINITION. The dispatch of a legal command to its meaning (spec/30_encoding.md R83, R84), one arm per command. -/

namespace Sys2Proof.Machine

def exec (i : Instr) (s : State) : Host.Outcome State Fault Refusal :=
  match i with
  | .nop => Sys2Proof.Machine.execNop s
  | .init => Sys2Proof.Machine.execInit s
  | .chunk => Sys2Proof.Machine.execChunk s
  | .lane4 => Sys2Proof.Machine.execLane4 s
  | .tail => Sys2Proof.Machine.execTail s
  | .final => Sys2Proof.Machine.execFinal s
  | .hash l => Sys2Proof.Machine.execHash l s

end Sys2Proof.Machine
end

