-- ==== Sys2Proof/Machine/Window.lean ====
section
/-! DEFINITION. The moves of the outside world: host reads and writes of the register window (spec/10_state.md R21-R28,
R37-R39), the reset input (spec/70_reset_and_hazards.md R210, R212), and changes of the input memory by the agent that owns
it (spec/20_memory.md R60, R74). -/

namespace Sys2Proof.Machine

/-- The offset of an admitted access of `size` bytes at host address `addr`, or why the access is refused (R37, R39, R212).
Where several reasons hold, the first of these is named (assumption 12). -/
def admitAccess (s : State) (addr size : Nat) : Except Refusal Nat :=
  if s.inReset then .error .accessDuringReset
  else if addr < s.cfg.mhmBase ∨ s.cfg.mhmBase + 0x40 ≤ addr then .error .outsideWindow
  else if size ≠ 4 then .error .accessSize
  else if (addr - s.cfg.mhmBase) % 4 ≠ 0 then .error .misaligned
  else .ok (addr - s.cfg.mhmBase)

/-- A write of word `w` to CMD (R22, R84): an illegal word raises ILLEGAL_CMD, which records nothing while ERR = 1; a legal
one runs its command, which minds ERR itself (R188). -/
def issueWord (w : Word) (s : State) : Host.Outcome State Fault Refusal :=
  match decode s.cfg.hasLanes w with
  | .ok i => exec i s
  | .error _ => .next (raiseError ⟨.illegalCmd, w, 0#32⟩ s)

/-- A write to SEED, LEN or BASE at offset `offset`, `store` being the stored write (R28). -/
def writeConfig (offset : Word) (store : State) (s : State) : State :=
  if hashInProgress s then raiseError ⟨.configLocked, offset, 0#32⟩ s else store

/-- A host write of `v` to a register (R22, R28, R38). -/
def writeReg (v : Word) (s : State) : WindowReg → Host.Outcome State Fault Refusal
  | .cmd => issueWord v s
  | .seed => .next (writeConfig 0x08#32 { s with seed := v } s)
  | .len => .next (writeConfig 0x0C#32 { s with len := v } s)
  | .base => .next (writeConfig 0x10#32 { s with base := v } s)
  | .status | .off | .h | .k | .m | .result | .errInfo | .errAddr | .lane0 | .lane1 | .lane2 | .lane3 => .next s

/-- A host read. -/
def hostRead (addr size : Nat) (s : State) : Host.Outcome State Fault Refusal :=
  match admitAccess s addr size with
  | .error r => .refused r
  | .ok offset =>
    match windowReg offset with
    | some r => .next { s with readData := some (readReg s r) }
    | none => .refused .misaligned

/-- A host write. -/
def hostWrite (addr size : Nat) (v : Word) (s : State) : Host.Outcome State Fault Refusal :=
  match admitAccess s addr size with
  | .error r => .refused r
  | .ok offset =>
    match windowReg offset with
    | some r => writeReg v s r
    | none => .refused .misaligned

/-- Whether address `a` is one of the LEN input bytes: (BASE + i) mod 2^32 for an i below LEN (R62, R74). -/
def isInputByte (s : State) (a : Word) : Bool := (a - s.base).toNat < s.len.toNat

/-- A change of the view at address `a` by the agent that owns the memory: no move while a hash is in progress over that
byte (R74, R214; assumption 7), otherwise done. -/
def changeView (a : Word) (b : Option Byte) (s : State) : Host.Outcome State Fault Refusal :=
  if hashInProgress s && isInputByte s a then .fault .viewRace else .next { s with view := s.view.set a b }

/-- One move of the outside world and its whole effect (R20). -/
def makeMove (mv : HostMove) (s : State) : Host.Outcome State Fault Refusal :=
  match mv with
  | .read addr size => hostRead addr size s
  | .write addr size v => hostWrite addr size v s
  | .assertReset => .next { resetRegisters s with inReset := true }
  | .releaseReset => .next { s with inReset := false }
  | .setView a b => changeView a b s

end Sys2Proof.Machine
end

