-- ==== Sys2Proof/Machine/Step.lean ====
section
/-! DEFINITION. One step of the model: the next move of the outside world and its whole effect (spec/10_state.md R20;
spec/20_memory.md R69, R73). -/

namespace Sys2Proof.Machine

/-- One step. The next pending move is taken off the queue and made; with none pending nothing happens, since between host
accesses the block "makes no step and its registers hold their values" (spec/60_exceptions.md R197). -/
def step (s : State) : Host.Outcome State Fault Refusal :=
  match s.pending with
  | [] => .next s
  | mv :: rest => makeMove mv { s with pending := rest }

/-- The state whose next step is the host's write of the table word `w` to CMD. A command is not fetched but supplied by
such a write (R40, R72; assumption 4), which is admitted only while reset is released (R212). -/
def State.withFetchWord (s : State) (nbits w : Nat) : State :=
  { s with inReset := false, pending := .write s.cfg.mhmBase 4 (tableWord nbits w) :: s.pending }

end Sys2Proof.Machine
end

