-- ==== Sys2Proof/Machine/Reference.lean ====
section
/-! DEFINITION. The reference functions `hash32` (spec/45_sequencer.md R160) and `vhash32` (R162), pure functions of the
input bytes, the length and the seed, that the commands are claimed to compute. `data i` is the byte at offset i (R13). -/

namespace Sys2Proof.Machine

/-- The little-endian group at offsets p .. p+3 (R65, R160 step 2a). -/
def groupAt (data : Nat → Byte) (p : Nat) : Word := le32 (data p) (data (p + 1)) (data (p + 2)) (data (p + 3))

/-- Steps 2a to 2g over `n` consecutive groups from offset `p`, in ascending order. -/
def foldGroups (data : Nat → Byte) (p : Nat) : Nat → Word → Word
  | 0, h => h
  | n + 1, h => foldH (foldGroups data p n h) (mixK (groupAt data (p + 4 * n)))

/-- The four groups of the 16-byte block at offset `p` (R150). -/
def blockAt (data : Nat → Byte) (p : Nat) : Block :=
  ⟨groupAt data p, groupAt data (p + 4), groupAt data (p + 8), groupAt data (p + 12)⟩

/-- The lane mixer over the first `n` 16-byte blocks (R162). -/
def foldBlocks (data : Nat → Byte) : Nat → Word → Word
  | 0, h => h
  | n + 1, h => foldLanes (foldBlocks data n h) (blockAt data (16 * n))

/-- Step 3: the `len mod 4` bytes from offset `4 * (len div 4)`. -/
def hashTail (data : Nat → Byte) (len : Word) (h : Word) : Word :=
  let p := len.toNat / 4 * 4
  if len.toNat % 4 = 0 then h
  else h ^^^ mixK (tailK (len.toNat % 4) (data p) (data (p + 1)) (data (p + 2)))

/-- R160: Hash32. -/
def hash32 (data : Nat → Byte) (len seed : Word) : Word :=
  fmix (hashTail data len (foldGroups data 0 (len.toNat / 4) seed) ^^^ len)

/-- R162: VectorizedHash32. The 16-byte blocks go through the lane mixer, the groups that remain through step 2. -/
def vhash32 (data : Nat → Byte) (len seed : Word) : Word :=
  let h := foldBlocks data (len.toNat / 16) seed
  let h := foldGroups data (16 * (len.toNat / 16)) (len.toNat % 16 / 4) h
  fmix (hashTail data len h ^^^ len)

end Sys2Proof.Machine
end

