-- ==== Sys2Proof/Safety.lean ====
section
/-! DEFINITION. The terms claims use: the invariant of the machine (spec/10_state.md R42 and the rules named beside each
clause), what the input holds, runs of commands, and conforming runs (spec/45_sequencer.md R163). -/

namespace Sys2Proof.Machine

/-- R210: every register has its reset value. -/
def RegistersReset (s : State) : Prop :=
  s.seed = 0#32 ∧ s.len = 0#32 ∧ s.base = 0#32 ∧ s.off = 0#32 ∧ s.h = 0#32 ∧ s.k = 0#32 ∧ s.m = 0#32 ∧
  s.result = 0#32 ∧ s.errInfo = 0#32 ∧ s.errAddr = 0#32 ∧ s.lane0 = 0#32 ∧ s.lane1 = 0#32 ∧ s.lane2 = 0#32 ∧
  s.lane3 = 0#32 ∧ s.phase = .idle ∧ s.err = false ∧ s.errCode = .none

/-- What holds in every reachable state. -/
structure Invariant (s : State) : Prop where
  /-- The view keeps its canonical form. -/
  viewCanonical : s.view.wf = true
  /-- R42: with ERR = 0 in BODY, OFF <= LEN and OFF is a multiple of 4. -/
  bodyOffset : s.err = false → s.phase = .body → s.off.toNat ≤ s.len.toNat ∧ s.off.toNat % 4 = 0
  /-- R42: with ERR = 0 in TAILED, OFF = LEN. -/
  tailedOffset : s.err = false → s.phase = .tailed → s.off = s.len
  /-- R42: M = mixK(K). -/
  mixed : s.m = mixK s.k
  /-- R180, row NONE: with ERR = 0, ERRCODE, ERRINFO and ERRADDR are 0. -/
  noRecord : s.err = false → s.errCode = .none ∧ s.errInfo = 0#32 ∧ s.errAddr = 0#32
  /-- R180: a recorded error has one of the codes 1 to 5. -/
  recorded : s.err = true → s.errCode ≠ .none
  /-- R36: ERRADDR is 0 for every error but VIEW_FAULT. -/
  addrOfViewFault : s.errCode ≠ .viewFault → s.errAddr = 0#32
  /-- R30: after FINAL, H equals RESULT. -/
  doneResult : s.phase = .done → s.h = s.result
  /-- R34: before FINAL, RESULT is 0. -/
  noResult : s.phase ≠ .done → s.result = 0#32
  /-- R24: in IDLE no hash has begun since reset, so no command has written a datapath register. -/
  idleRegisters : s.phase = .idle →
    s.off = 0#32 ∧ s.h = 0#32 ∧ s.k = 0#32 ∧ s.lane0 = 0#32 ∧ s.lane1 = 0#32 ∧ s.lane2 = 0#32 ∧ s.lane3 = 0#32
  /-- R33, R154: without the lane mixer the lane registers stay 0. -/
  lanesAbsent : s.cfg.hasLanes = false →
    s.lane0 = 0#32 ∧ s.lane1 = 0#32 ∧ s.lane2 = 0#32 ∧ s.lane3 = 0#32
  /-- R210: while reset is asserted, every register has its reset value. -/
  heldInReset : s.inReset = true → RegistersReset s

/-- The LEN input bytes at BASE are readable and are `data` (R62; R163's premise). -/
def InputIs (s : State) (data : Nat → Byte) : Prop :=
  ∀ i, i < s.len.toNat → s.view.read (s.base + BitVec.ofNat 32 i) = some (data i)

/-- Address `a` is that of the unreadable byte of lowest offset among the `n` bytes at the current position (R184). -/
def FirstUnreadable (s : State) (n : Nat) (a : Word) : Prop :=
  ∃ j, j < n ∧ (∀ i, i < j → ∃ b, s.view.read (inputAddr s i) = some b) ∧ s.view.read (inputAddr s j) = none ∧
    a = inputAddr s j

/-- R85: the words that are no command, when HAS_LANES is `hasLanes`. -/
def IllegalWord (hasLanes : Bool) (w : Word) : Prop :=
  fieldRsv w ≠ 0#27 ∨ 7 ≤ (fieldOp w).toNat ∨ (fieldL w = true ∧ (fieldOp w).toNat ≤ 5) ∨
    (hasLanes = false ∧ (w = 0x00000003#32 ∨ w = 0x00000016#32))

/-- Commands issued one after another. -/
def runCommands : List Instr → State → Host.Outcome State Fault Refusal
  | [], s => .next s
  | i :: rest, s =>
    match exec i s with
    | .next t => runCommands rest t
    | .fault r => .fault r
    | .refused r => .refused r

/-- R163: INIT, then CHUNKs and LANE4s that leave LEN - OFF < 4 without error, then TAIL, then FINAL. -/
def SteppedHash (s t : State) : Prop :=
  ∃ groups u, (∀ c ∈ groups, c = .chunk ∨ c = .lane4) ∧ runCommands (.init :: groups) s = .next u ∧
    u.err = false ∧ remaining u < 4 ∧ runCommands [.tail, .final] u = .next t

/-- R163: a conforming run from `s` to `t`, that is the single-step sequence or one HASH. -/
def ConformingRun (s t : State) : Prop := SteppedHash s t ∨ ∃ l, exec (.hash l) s = .next t

/-- R64: the input offsets below LEN that a command may read. -/
def ReadsOffset (s : State) (n : Nat) : Instr → Prop
  | .nop => False
  | .init => False
  | .chunk => s.off.toNat ≤ n ∧ n < s.off.toNat + 4 ∧ n < s.len.toNat
  | .lane4 => s.off.toNat ≤ n ∧ n < s.off.toNat + 16 ∧ n < s.len.toNat
  | .tail => s.off.toNat ≤ n ∧ n < s.len.toNat
  | .final => False
  | .hash _ => n < s.len.toNat

/-- An outcome with the view of its next state replaced. -/
def withView (v : Memory) : Host.Outcome State Fault Refusal → Host.Outcome State Fault Refusal
  | .next t => .next { t with view := v }
  | .fault r => .fault r
  | .refused r => .refused r

/-- The host's write of word `w` to CMD, as a move. -/
def cmdWrite (s : State) (w : Word) : HostMove := .write s.cfg.mhmBase 4 w

/-- The host's write of `v` at window offset `offset`, as a move. -/
def windowWrite (s : State) (offset : Nat) (v : Word) : HostMove := .write (s.cfg.mhmBase + offset) 4 v

/-- The host's read at window offset `offset`, as a move. -/
def windowRead (s : State) (offset : Nat) : HostMove := .read (s.cfg.mhmBase + offset) 4

end Sys2Proof.Machine
end

