-- ==== Sys2Proof/Certificates/Slice0/Obligations.lean ====
section
/-! DEFINITION. The statements for the provers. A statement about a command is about `exec`; one about a host access, a
reset or a change of the view is about `step` with that move pending. -/

open Sys2Proof Sys2Proof.Machine

/-! ## Reset (spec/70_reset_and_hazards.md) -/

/-- R210: State.reset has every register 0, PHASE = IDLE, ERR = 0 and ERRCODE = 0; and from any state the reset input
gives the registers those values and changes no parameter and no view byte. They hold them while reset is asserted. INIT
does not reset SEED, LEN or BASE. That reset is a move, which keeps the parameters, the view and the moves still pending, is
the model's choice (assumption log entry 6), not R210's words. -/
def Obligations.ResetClearsEveryRegister : Prop :=
  (∀ s : State, s = State.reset ∨ (∃ s₀ rest, s₀.pending = .assertReset :: rest ∧ step s₀ = .next s) →
    RegistersReset s ∧ status s = 0x00000000#32) ∧
  (∀ (s₀ : State) rest, s₀.pending = .assertReset :: rest →
    ∃ t, step s₀ = .next t ∧ t.inReset = true ∧ t.cfg = s₀.cfg ∧ t.view = s₀.view ∧ t.pending = rest) ∧
  (∀ s t : State, s.inReset = true → RegistersReset s → step s = .next t → RegistersReset t) ∧
  (∀ s t : State, exec .init s = .next t → t.seed = s.seed ∧ t.len = s.len ∧ t.base = s.base)

/-- The invariant holds right after reset. -/
def Obligations.ResetStateMeetsInvariant : Prop := Invariant State.reset

/-- Every step keeps the invariant: R42, and the clauses of `Invariant` with the rules they cite. -/
def Obligations.StepKeepsInvariant : Prop := ∀ s t, Invariant s → step s = .next t → Invariant t

/-- R212: a host access while reset is asserted is refused, and releasing reset changes nothing but the reset input. -/
def Obligations.AccessDuringResetIsRefused : Prop :=
  (∀ (s : State) rest addr size v, s.inReset = true →
    (s.pending = .read addr size :: rest ∨ s.pending = .write addr size v :: rest) →
    step s = .refused .accessDuringReset) ∧
  (∀ (s : State) rest, s.pending = .releaseReset :: rest →
    step s = .next { s with inReset := false, pending := rest })

/-! ## Encoding (spec/30_encoding.md) -/

/-- R83, R84: a word decodes to a command exactly when the command exists and the word is its command word. -/
def Obligations.WordDecodesIffCommandWord : Prop :=
  ∀ hasLanes w i, decode hasLanes w = .ok i ↔ i.wellFormed hasLanes = true ∧ encode i = w

/-- R83: the eight command words, written out bit by bit, decode to their commands. -/
def Obligations.CommandWordsDecode : Prop :=
  decode true 0b00000000000000000000000000000000#32 = .ok .nop ∧
  decode true 0b00000000000000000000000000000001#32 = .ok .init ∧
  decode true 0b00000000000000000000000000000010#32 = .ok .chunk ∧
  decode true 0b00000000000000000000000000000011#32 = .ok .lane4 ∧
  decode true 0b00000000000000000000000000000100#32 = .ok .tail ∧
  decode true 0b00000000000000000000000000000101#32 = .ok .final ∧
  decode true 0b00000000000000000000000000000110#32 = .ok (.hash false) ∧
  decode true 0b00000000000000000000000000010110#32 = .ok (.hash true)

/-- R85, R181: the illegal words are exactly those listed, and writing one to CMD raises ILLEGAL_CMD and does nothing
else, whatever PHASE is; with ERR = 1 it records nothing. -/
def Obligations.IllegalWordRaisesIllegalCmd : Prop :=
  (∀ hasLanes w, IllegalWord hasLanes w ↔ ∀ i, decode hasLanes w ≠ .ok i) ∧
  (∀ (s : State) w rest, s.inReset = false → s.pending = cmdWrite s w :: rest → IllegalWord s.cfg.hasLanes w →
    step s = .next (if s.err = true then { s with pending := rest }
      else { s with pending := rest, err := true, errCode := .illegalCmd, errInfo := w, errAddr := 0#32 }))

/-! ## The step (spec/10_state.md R20, R22; spec/60_exceptions.md R197) -/

/-- R22: a write of a legal word to CMD is one step that runs the decoded command to its end. -/
def Obligations.StepRunsTheDecodedCommand : Prop :=
  ∀ (s : State) w rest i, s.inReset = false → s.pending = cmdWrite s w :: rest → decode s.cfg.hasLanes w = .ok i →
    step s = exec i { s with pending := rest }

/-- R197: with no host access, the registers hold their values. -/
def Obligations.NoStepBetweenAccesses : Prop := ∀ s : State, s.pending = [] → step s = .next s

/-- R20, R69: a step makes exactly the next move and changes no parameter. -/
def Obligations.StepTakesOneMove : Prop :=
  ∀ s t : State, step s = .next t → t.pending = s.pending.tail ∧ t.cfg = s.cfg

/-- Every command answers a next state, in every state: an error is recorded and stops nothing (R186). -/
def Obligations.CommandsAlwaysComplete : Prop := ∀ i s, ∃ t, exec i s = .next t

/-! ## Commands (spec/40_control.md to spec/44_lane.md) -/

/-- R100: NOP changes nothing, in every phase and with ERR 0 or 1, and is the word 0 alone. -/
def Obligations.NopChangesNothing : Prop :=
  (∀ s, exec .nop s = .next s) ∧ ∀ hasLanes w, decode hasLanes w = .ok .nop ↔ w = 0x00000000#32

/-- R101: INIT, the word 1 alone, in every state. -/
def Obligations.InitStartsHash : Prop :=
  (∀ hasLanes w, decode hasLanes w = .ok .init ↔ w = 0x00000001#32) ∧
  (∀ s : State, exec .init s = .next { s with
      h := s.seed, off := 0#32, k := 0#32, m := 0#32, lane0 := 0#32, lane1 := 0#32, lane2 := 0#32, lane3 := 0#32,
      result := 0#32, phase := .body, err := false, errCode := .none, errInfo := 0#32, errAddr := 0#32 }) ∧
  ∀ s t : State, exec .init s = .next t → status t = 0x00000001#32

/-- R113: CHUNK with ERR = 0: SEQUENCE outside BODY; BOUNDS when fewer than 4 bytes remain; VIEW_FAULT at the unreadable
byte of lowest offset; otherwise the group is folded. CHUNK is the word 2 alone. -/
def Obligations.ChunkFoldsOneGroup : Prop :=
  (∀ hasLanes w, decode hasLanes w = .ok .chunk ↔ w = 0x00000002#32) ∧
  ∀ s : State, s.err = false →
    (s.phase ≠ .body → exec .chunk s =
      .next { s with err := true, errCode := .sequence, errInfo := 0x00000002#32, errAddr := 0#32 }) ∧
    (s.phase = .body → s.len.toNat < s.off.toNat + 4 → exec .chunk s =
      .next { s with err := true, errCode := .bounds, errInfo := 0x00000002#32, errAddr := 0#32 }) ∧
    (s.phase = .body → s.off.toNat + 4 ≤ s.len.toNat → ∀ a, FirstUnreadable s 4 a → exec .chunk s =
      .next { s with err := true, errCode := .viewFault, errInfo := 0x00000002#32, errAddr := a }) ∧
    (s.phase = .body → s.off.toNat + 4 ≤ s.len.toNat →
      ∀ bytes : Nat → Byte, (∀ j, j < 4 → s.view.read (s.base + s.off + BitVec.ofNat 32 j) = some (bytes j)) →
      exec .chunk s = .next { s with
        k := le32 (bytes 0) (bytes 1) (bytes 2) (bytes 3)
        m := mixK (le32 (bytes 0) (bytes 1) (bytes 2) (bytes 3))
        h := foldH s.h (mixK (le32 (bytes 0) (bytes 1) (bytes 2) (bytes 3)))
        off := s.off + 4#32 })

/-- R151: LANE4 with ERR = 0: SEQUENCE outside BODY; BOUNDS when fewer than 16 bytes remain; VIEW_FAULT at the unreadable
byte of lowest offset; otherwise four lanes are mixed and folded serially, lane 0 first. LANE4 is the word 3 alone, and
illegal without the lane mixer. -/
def Obligations.LaneFoldsOneBlock : Prop :=
  (∀ hasLanes w, decode hasLanes w = .ok .lane4 ↔ hasLanes = true ∧ w = 0x00000003#32) ∧
  ∀ s : State, s.err = false →
    (s.phase ≠ .body → exec .lane4 s =
      .next { s with err := true, errCode := .sequence, errInfo := 0x00000003#32, errAddr := 0#32 }) ∧
    (s.phase = .body → s.len.toNat < s.off.toNat + 16 → exec .lane4 s =
      .next { s with err := true, errCode := .bounds, errInfo := 0x00000003#32, errAddr := 0#32 }) ∧
    (s.phase = .body → s.off.toNat + 16 ≤ s.len.toNat → ∀ a, FirstUnreadable s 16 a → exec .lane4 s =
      .next { s with err := true, errCode := .viewFault, errInfo := 0x00000003#32, errAddr := a }) ∧
    (s.phase = .body → s.off.toNat + 16 ≤ s.len.toNat →
      ∀ bytes : Nat → Byte, (∀ j, j < 16 → s.view.read (s.base + s.off + BitVec.ofNat 32 j) = some (bytes j)) →
      ∀ lane : Nat → Word, (∀ i, i < 4 → lane i =
        mixK (le32 (bytes (4 * i)) (bytes (4 * i + 1)) (bytes (4 * i + 2)) (bytes (4 * i + 3)))) →
      exec .lane4 s = .next { s with
        lane0 := lane 0, lane1 := lane 1, lane2 := lane 2, lane3 := lane 3
        k := le32 (bytes 12) (bytes 13) (bytes 14) (bytes 15)
        m := lane 3
        h := foldH (foldH (foldH (foldH s.h (lane 0)) (lane 1)) (lane 2)) (lane 3)
        off := s.off + 16#32 })

/-- R132: TAIL with ERR = 0: SEQUENCE outside BODY or with 4 or more bytes left; only PHASE changes when no byte is left;
VIEW_FAULT at the unreadable byte of lowest offset; otherwise the 1 to 3 bytes are composed and XORed in. STATUS becomes 2
on success (with ERRCODE 0, as the invariant says of ERR = 0). TAIL is the word 4 alone. -/
def Obligations.TailFoldsTheRest : Prop :=
  (∀ hasLanes w, decode hasLanes w = .ok .tail ↔ w = 0x00000004#32) ∧
  ∀ s : State, s.err = false →
    (∀ t, s.errCode = .none → exec .tail s = .next t → t.err = false → status t = 0x00000002#32) ∧
    (s.phase ≠ .body → exec .tail s =
      .next { s with err := true, errCode := .sequence, errInfo := 0x00000004#32, errAddr := 0#32 }) ∧
    (s.phase = .body → s.off.toNat + 4 ≤ s.len.toNat → exec .tail s =
      .next { s with err := true, errCode := .sequence, errInfo := 0x00000004#32, errAddr := 0#32 }) ∧
    (s.phase = .body → s.len = s.off → exec .tail s = .next { s with phase := .tailed }) ∧
    (∀ rem, 1 ≤ rem → rem ≤ 3 → s.phase = .body → s.len.toNat = s.off.toNat + rem →
      (∀ a, FirstUnreadable s rem a → exec .tail s =
        .next { s with err := true, errCode := .viewFault, errInfo := 0x00000004#32, errAddr := a }) ∧
      ∀ bytes : Nat → Byte, (∀ j, j < rem → s.view.read (s.base + s.off + BitVec.ofNat 32 j) = some (bytes j)) →
      exec .tail s = .next { s with
        k := tailK rem (bytes 0) (bytes 1) (bytes 2)
        m := mixK (tailK rem (bytes 0) (bytes 1) (bytes 2))
        h := s.h ^^^ mixK (tailK rem (bytes 0) (bytes 1) (bytes 2))
        off := s.len
        phase := .tailed })

/-- R141: FINAL with ERR = 0: SEQUENCE outside TAILED, otherwise the length XOR and the avalanche. STATUS becomes 3 on
success (with ERRCODE 0, as the invariant says of ERR = 0). FINAL is the word 5 alone. -/
def Obligations.FinalWritesResult : Prop :=
  (∀ hasLanes w, decode hasLanes w = .ok .final ↔ w = 0x00000005#32) ∧
  ∀ s : State, s.err = false →
    (∀ t, s.errCode = .none → exec .final s = .next t → t.err = false → status t = 0x00000003#32) ∧
    (s.phase ≠ .tailed → exec .final s =
      .next { s with err := true, errCode := .sequence, errInfo := 0x00000005#32, errAddr := 0#32 }) ∧
    (s.phase = .tailed → exec .final s =
      .next { s with h := fmix (s.h ^^^ s.len), result := fmix (s.h ^^^ s.len), phase := .done })

/-- R82, column "writes": what each command leaves unchanged, and every byte of the view. Every command may write the
error record through an error; one that records none leaves it, but for INIT and HASH, which clear it. -/
def Obligations.CommandsWriteOnlyTheirOperands : Prop :=
  ∀ i (s t : State), exec i s = .next t →
    (t.seed = s.seed ∧ t.len = s.len ∧ t.base = s.base ∧ t.cfg = s.cfg ∧ t.inReset = s.inReset ∧
      t.pending = s.pending ∧ t.readData = s.readData ∧ ∀ a, t.view.read a = s.view.read a) ∧
    (i = .nop → t = s) ∧
    (i = .chunk ∨ i = .lane4 → t.phase = s.phase ∧ t.result = s.result) ∧
    (i = .tail → t.result = s.result) ∧
    (i = .final → t.off = s.off ∧ t.k = s.k ∧ t.m = s.m) ∧
    (i = .chunk ∨ i = .tail ∨ i = .final →
      t.lane0 = s.lane0 ∧ t.lane1 = s.lane1 ∧ t.lane2 = s.lane2 ∧ t.lane3 = s.lane3) ∧
    (i ≠ .init → (∀ l, i ≠ .hash l) → t.err = s.err →
      t.errCode = s.errCode ∧ t.errInfo = s.errInfo ∧ t.errAddr = s.errAddr)

/-- R41: the phase each command moves to, with ERR = 0; a command not allowed in the phase raises SEQUENCE and leaves
PHASE unchanged. -/
def Obligations.PhaseTransitions : Prop :=
  ∀ (s t : State) i, s.err = false → s.errCode = .none → exec i s = .next t →
    (i = .nop → t.phase = s.phase ∧ t.err = false) ∧
    (i = .init → t.phase = .body ∧ t.err = false) ∧
    (i = .chunk ∨ i = .lane4 → s.phase = .body → t.phase = .body ∧ t.errCode ≠ .sequence) ∧
    (i = .chunk ∨ i = .lane4 → s.phase ≠ .body → t.phase = s.phase ∧ t.errCode = .sequence) ∧
    (i = .tail → s.phase = .body → s.len.toNat < s.off.toNat + 4 →
      t.phase = .tailed ∧ t.err = false ∨ t.phase = .body ∧ t.errCode = .viewFault) ∧
    (i = .tail → s.phase ≠ .body ∨ s.off.toNat + 4 ≤ s.len.toNat → t.phase = s.phase ∧ t.errCode = .sequence) ∧
    (i = .final → s.phase = .tailed → t.phase = .done ∧ t.err = false) ∧
    (i = .final → s.phase ≠ .tailed → t.phase = s.phase ∧ t.errCode = .sequence) ∧
    (∀ l, i = .hash l → t.phase = .done ∧ t.err = false ∨ t.phase = .body ∧ t.errCode = .viewFault)

/-! ## Errors (spec/60_exceptions.md) -/

/-- R187: a failing command other than HASH has no effect but the record: its code, its word, and an address for
VIEW_FAULT alone. -/
def Obligations.FailingCommandOnlyRecords : Prop :=
  ∀ i (s t : State), (∀ l, i ≠ .hash l) → s.err = false → exec i s = .next t → t.err = true →
    (t.errCode = .sequence ∨ t.errCode = .bounds ∨ t.errCode = .viewFault) ∧
    (t.errCode ≠ .viewFault → t.errAddr = 0#32) ∧
    t = { s with err := true, errCode := t.errCode, errInfo := encode i, errAddr := t.errAddr }

/-- R188: while an error is recorded. -/
def Obligations.RecordedErrorBlocksCommands : Prop :=
  ∀ s : State, s.err = true →
    (∀ i, i = .nop ∨ i = .chunk ∨ i = .lane4 ∨ i = .tail ∨ i = .final → exec i s = .next s) ∧
    (∀ i, i = .init ∨ (∃ l, i = .hash l) → exec i s = exec i (clearError s)) ∧
    (∀ w rest, s.inReset = false → s.pending = cmdWrite s w :: rest → IllegalWord s.cfg.hasLanes w →
      step s = .next { s with pending := rest }) ∧
    (∀ v rest, s.inReset = false →
      (s.pending = windowWrite s 0x08 v :: rest → step s = .next { s with pending := rest, seed := v }) ∧
      (s.pending = windowWrite s 0x0C v :: rest → step s = .next { s with pending := rest, len := v }) ∧
      (s.pending = windowWrite s 0x10 v :: rest → step s = .next { s with pending := rest, base := v }))

/-- R190: a step that leaves ERR = 1 behind is a write of INIT or HASH to CMD or the reset input; every other step keeps
the whole error record, and those that clear it clear all four fields. -/
def Obligations.OnlyInitHashAndResetClearErrors : Prop :=
  ∀ s t : State, s.err = true → step s = .next t →
    (t.err = true ∧ t.errCode = s.errCode ∧ t.errInfo = s.errInfo ∧ t.errAddr = s.errAddr) ∨
    (∃ rest, s.pending = .assertReset :: rest ∧
      t.err = false ∧ t.errCode = .none ∧ t.errInfo = 0#32 ∧ t.errAddr = 0#32) ∨
    (∃ w rest, s.pending = cmdWrite s w :: rest ∧ (w = encode .init ∨ ∃ l, w = encode (.hash l)) ∧
      (w = encode .init → t.err = false) ∧
      (t.err = false → t.errCode = .none ∧ t.errInfo = 0#32 ∧ t.errAddr = 0#32) ∧
      (t.err = true → t.errCode = .viewFault ∧ t.errInfo = w))

/-! ## The register window (spec/10_state.md) -/

/-- R28: a write to SEED, LEN or BASE raises CONFIG_LOCKED with its offset when ERR = 0 and PHASE is BODY or TAILED, and is
stored in every other case. -/
def Obligations.ConfigurationLock : Prop :=
  ∀ (s : State) v rest, s.inReset = false →
    (s.err = false → s.phase = .body ∨ s.phase = .tailed → ∀ offset, offset = 0x08 ∨ offset = 0x0C ∨ offset = 0x10 →
      s.pending = windowWrite s offset v :: rest →
      step s = .next { s with
        pending := rest, err := true, errCode := .configLocked, errInfo := BitVec.ofNat 32 offset, errAddr := 0#32 }) ∧
    (s.err = true ∨ s.phase = .idle ∨ s.phase = .done →
      (s.pending = windowWrite s 0x08 v :: rest → step s = .next { s with pending := rest, seed := v }) ∧
      (s.pending = windowWrite s 0x0C v :: rest → step s = .next { s with pending := rest, len := v }) ∧
      (s.pending = windowWrite s 0x10 v :: rest → step s = .next { s with pending := rest, base := v }))

/-- R38: a write to a read-only register is ignored, and a read returns the register's value and changes nothing else
(`readData` is where the model keeps the value returned, assumption 5). CMD reads 0 (R22). -/
def Obligations.ReadsAndReadOnlyWrites : Prop :=
  ∀ (s : State) rest, s.inReset = false →
    (∀ v offset, offset ∈ [0x04, 0x14, 0x18, 0x1C, 0x20, 0x24, 0x28, 0x2C, 0x30, 0x34, 0x38, 0x3C] →
      s.pending = windowWrite s offset v :: rest → step s = .next { s with pending := rest }) ∧
    (∀ offset v, (offset, v) ∈ [(0x00, 0#32), (0x04, status s), (0x08, s.seed), (0x0C, s.len), (0x10, s.base),
        (0x14, s.off), (0x18, s.h), (0x1C, s.k), (0x20, s.m), (0x24, s.result), (0x28, s.errInfo), (0x2C, s.errAddr),
        (0x30, s.lane0), (0x34, s.lane1), (0x38, s.lane2), (0x3C, s.lane3)] →
      s.pending = windowRead s offset :: rest → step s = .next { s with pending := rest, readData := some v })

/-- R39: outside reset, exactly the 32-bit accesses at a word-aligned offset 0x00 to 0x3C are admitted; every other is
refused. -/
def Obligations.OnlyAlignedWordAccessesAdmitted : Prop :=
  ∀ (s : State) addr size v rest, s.inReset = false →
    (s.pending = .read addr size :: rest ∨ s.pending = .write addr size v :: rest) →
    ((size = 4 ∧ ∃ n, n < 16 ∧ addr = s.cfg.mhmBase + 4 * n) → ∃ t, step s = .next t) ∧
    (¬ (size = 4 ∧ ∃ n, n < 16 ∧ addr = s.cfg.mhmBase + 4 * n) → ∃ r, step s = .refused r)

/-- R23: the fields of STATUS, with the encodings of PHASE (R24) and of ERRCODE (R180). -/
def Obligations.StatusFields : Prop :=
  (Phase.idle.bits = 0#2 ∧ Phase.body.bits = 1#2 ∧ Phase.tailed.bits = 2#2 ∧ Phase.done.bits = 3#2) ∧
  (ErrCode.none.bits = 0#4 ∧ ErrCode.illegalCmd.bits = 1#4 ∧ ErrCode.sequence.bits = 2#4 ∧ ErrCode.bounds.bits = 3#4 ∧
    ErrCode.viewFault.bits = 4#4 ∧ ErrCode.configLocked.bits = 5#4) ∧
  ∀ s : State,
    (status s).extractLsb' 0 2 = s.phase.bits ∧ (status s).getLsbD 2 = s.err ∧ (status s).getLsbD 3 = false ∧
    (status s).extractLsb' 4 4 = s.errCode.bits ∧ (status s).extractLsb' 8 24 = 0#24

/-! ## The input view (spec/20_memory.md) -/

/-- R63: no host access and no command writes the input view; only the agent that owns the memory does. -/
def Obligations.BlockNeverWritesTheView : Prop :=
  ∀ s t : State, step s = .next t → (∀ a b rest, s.pending ≠ .setView a b :: rest) →
    ∀ a, t.view.read a = s.view.read a

/-- The model's move for a change of the view (R60, R74; assumption 7): with no hash in progress over that byte, that
address reads as changed, every other address and every register as before; otherwise the named fault. -/
def Obligations.ViewChangeOutsideHash : Prop :=
  ∀ (s : State) a b rest, s.pending = .setView a b :: rest →
    ((s.err = false ∧ (s.phase = .body ∨ s.phase = .tailed) ∧
      ∃ i, i < s.len.toNat ∧ a = s.base + BitVec.ofNat 32 i) → step s = .fault .viewRace) ∧
    (¬ (s.err = false ∧ (s.phase = .body ∨ s.phase = .tailed) ∧
      ∃ i, i < s.len.toNat ∧ a = s.base + BitVec.ofNat 32 i) →
      ∃ t, step s = .next t ∧ t.view.read a = b ∧ (∀ c, c ≠ a → t.view.read c = s.view.read c) ∧
        t = { s with pending := rest, view := t.view })

/-- R64: a command depends on no byte of the view but those it may read, all of them at offsets below LEN. -/
def Obligations.CommandsReadOnlyTheInput : Prop :=
  ∀ i (s : State) (v : Memory),
    (∀ n, ReadsOffset s n i → v.read (s.base + BitVec.ofNat 32 n) = s.view.read (s.base + BitVec.ofNat 32 n)) →
    exec i { s with view := v } = withView v (exec i s)

/-! ## The datapath functions -/

/-- R110: byte j of a composed group is the byte at offset j. -/
def Obligations.GroupIsLittleEndian : Prop :=
  ∀ b0 b1 b2 b3 : Byte,
    (le32 b0 b1 b2 b3).extractLsb' 0 8 = b0 ∧ (le32 b0 b1 b2 b3).extractLsb' 8 8 = b1 ∧
    (le32 b0 b1 b2 b3).extractLsb' 16 8 = b2 ∧ (le32 b0 b1 b2 b3).extractLsb' 24 8 = b3

/-- R114: the properties of the chunk functions. -/
def Obligations.ChunkFunctionProperties : Prop :=
  mixK 0#32 = 0#32 ∧ (∀ h k h' k', h ^^^ k = h' ^^^ k' → foldH h k = foldH h' k') ∧
  Function.Bijective mixK ∧ ∀ k, Function.Bijective (fun h => foldH h k)

/-- R130: a tail of `rem` bytes is the group of those bytes with the missing high bytes zero. -/
def Obligations.TailIsZeroPaddedGroup : Prop :=
  ∀ t0 t1 t2 : Byte,
    tailK 3 t0 t1 t2 = le32 t0 t1 t2 0#8 ∧ tailK 2 t0 t1 t2 = le32 t0 t1 0#8 0#8 ∧
    tailK 1 t0 t1 t2 = le32 t0 0#8 0#8 0#8 ∧ ∀ rem, 1 ≤ rem → rem ≤ 3 → tailK rem t0 t1 t2 >>> (8 * rem) = 0#32

/-- R142: `fmix(0) = 0`, and `fmix` is a bijection. -/
def Obligations.AvalancheProperties : Prop := fmix 0#32 = 0#32 ∧ Function.Bijective fmix

/-! ## The whole hash (spec/44_lane.md, spec/45_sequencer.md) -/

/-- R152: where LANE4 succeeds, four CHUNKs leave the same state but for LANE[0..3], which they do not write. -/
def Obligations.LaneBlockEqualsFourChunks : Prop :=
  ∀ s t : State, s.err = false → exec .lane4 s = .next t → t.err = false →
    runCommands [.chunk, .chunk, .chunk, .chunk] s =
      .next { t with lane0 := s.lane0, lane1 := s.lane1, lane2 := s.lane2, lane3 := s.lane3 }

/-- R164, the functions: the lane and the scalar algorithm agree. -/
def Obligations.VectorHashEqualsScalarHash : Prop := ∀ data len seed, vhash32 data len seed = hash32 data len seed

/-- R164, the command: HASH with L = 1 and with L = 0 leave the same state but for the lane registers, which are 0 after
L = 0 and hold the last block's lanes after L = 1 with LEN >= 16. -/
def Obligations.LaneBitChangesOnlyTheLanes : Prop :=
  ∀ (s : State) data, InputIs s data → ∃ t0 t1 : State, exec (.hash false) s = .next t0 ∧ exec (.hash true) s = .next t1 ∧
    t1 = { t0 with lane0 := t1.lane0, lane1 := t1.lane1, lane2 := t1.lane2, lane3 := t1.lane3 } ∧
    t0.lane0 = 0#32 ∧ t0.lane1 = 0#32 ∧ t0.lane2 = 0#32 ∧ t0.lane3 = 0#32 ∧
    (s.len.toNat < 16 → t1 = t0) ∧
    (16 ≤ s.len.toNat → ∀ p, p = 16 * (s.len.toNat / 16 - 1) →
      t1.lane0 = mixK (groupAt data p) ∧ t1.lane1 = mixK (groupAt data (p + 4)) ∧
      t1.lane2 = mixK (groupAt data (p + 8)) ∧ t1.lane3 = mixK (groupAt data (p + 12)))

/-- R165, with the value of R163: on a readable input HASH raises no error, ends in DONE and has computed hash32, for every
LEN and SEED and from every state; K is the tail composition when LEN mod 4 is not 0, else the last group, else 0 (R31);
nothing outside its operands changes. -/
def Obligations.HashCompletesOnReadableInput : Prop :=
  ∀ l (s : State) data, InputIs s data → ∃ t, exec (.hash l) s = .next t ∧
    t.phase = .done ∧ t.err = false ∧ status t = 0x00000003#32 ∧ t.errInfo = 0#32 ∧ t.errAddr = 0#32 ∧
    t.result = hash32 data s.len s.seed ∧ t.h = t.result ∧ t.off = s.len ∧ t.m = mixK t.k ∧
    (∀ p, p = 4 * (s.len.toNat / 4) → s.len.toNat % 4 ≠ 0 →
      t.k = tailK (s.len.toNat % 4) (data p) (data (p + 1)) (data (p + 2))) ∧
    (s.len.toNat % 4 = 0 → s.len ≠ 0#32 → t.k = groupAt data (s.len.toNat - 4)) ∧
    (s.len = 0#32 → t.k = 0#32) ∧
    t.seed = s.seed ∧ t.len = s.len ∧ t.base = s.base ∧ t.view = s.view

/-- R163: every conforming run on a readable input ends with PHASE = DONE, ERR = 0 and RESULT = H = hash32; HASH with L = 1
gives vhash32. -/
def Obligations.ConformingRunComputesHash : Prop :=
  ∀ (s t : State) data, InputIs s data → ConformingRun s t →
    t.phase = .done ∧ t.err = false ∧ t.result = hash32 data s.len s.seed ∧ t.h = t.result ∧
    (exec (.hash true) s = .next t → t.result = vhash32 data s.len s.seed)

/-- R166: two conforming runs with equal SEED, LEN and input bytes give equal RESULT, whatever BASE, the registers before
INIT and the L bit are. -/
def Obligations.ResultIsDetermined : Prop :=
  ∀ (s s' t t' : State) data, s.seed = s'.seed → s.len = s'.len → InputIs s data → InputIs s' data →
    ConformingRun s t → ConformingRun s' t' → t.result = t'.result

/-- R167: the zero case. -/
def Obligations.ZeroCase : Prop :=
  (∀ data, hash32 data 0#32 0#32 = 0#32) ∧
  ∀ l (s : State), s.len = 0#32 → s.seed = 0#32 →
    ∃ t, exec (.hash l) s = .next t ∧ t.result = 0x00000000#32 ∧ status t = 0x00000003#32

/-- R161, R184, R187: HASH on an input whose first unreadable byte is at offset `n` stops there with VIEW_FAULT, HASH's own
word and that byte's address, in BODY, with the sub-steps before the failing one done and RESULT = 0. LANE[0..3] hold the
last block folded, and 0 when none was: with L = 0, or with no readable 16-byte block before `n`. -/
def Obligations.HashStopsAtFirstUnreadableByte : Prop :=
  ∀ l (s : State) data n, n < s.len.toNat →
    (∀ i, i < n → s.view.read (s.base + BitVec.ofNat 32 i) = some (data i)) →
    s.view.read (s.base + BitVec.ofNat 32 n) = none →
    ∃ t, exec (.hash l) s = .next t ∧ t.err = true ∧ t.errCode = .viewFault ∧ t.errInfo = encode (.hash l) ∧
      t.errAddr = s.base + BitVec.ofNat 32 n ∧ t.phase = .body ∧ t.result = 0#32 ∧
      t.off.toNat = (if l = true ∧ 16 * (n / 16) + 16 ≤ s.len.toNat then 16 * (n / 16) else 4 * (n / 4)) ∧
      t.h = foldGroups data 0 (t.off.toNat / 4) s.seed ∧
      t.k = (if t.off.toNat = 0 then 0#32 else groupAt data (t.off.toNat - 4)) ∧ t.m = mixK t.k ∧
      (l = false ∨ n < 16 → t.lane0 = 0#32 ∧ t.lane1 = 0#32 ∧ t.lane2 = 0#32 ∧ t.lane3 = 0#32) ∧
      (l = true → 16 ≤ n → ∀ p, p = 16 * (n / 16 - 1) →
        t.lane0 = mixK (groupAt data p) ∧ t.lane1 = mixK (groupAt data (p + 4)) ∧
        t.lane2 = mixK (groupAt data (p + 8)) ∧ t.lane3 = mixK (groupAt data (p + 12))) ∧
      t.seed = s.seed ∧ t.len = s.len ∧ t.base = s.base ∧ t.view = s.view

/-- R154: without the lane mixer the words of LANE4 and of HASH with L = 1 are illegal, and a step leaves the lane registers
as they are or, through INIT (also HASH's) or reset, 0. -/
def Obligations.LanesStayUnwrittenWithoutMixer : Prop :=
  ∀ s t : State, s.cfg.hasLanes = false →
    (∀ i, decode s.cfg.hasLanes 0x00000003#32 ≠ .ok i ∧ decode s.cfg.hasLanes 0x00000016#32 ≠ .ok i) ∧
    (step s = .next t →
      (t.lane0 = s.lane0 ∧ t.lane1 = s.lane1 ∧ t.lane2 = s.lane2 ∧ t.lane3 = s.lane3) ∨
      (t.lane0 = 0#32 ∧ t.lane1 = 0#32 ∧ t.lane2 = 0#32 ∧ t.lane3 = 0#32))

/-- R168: the calling sequence. From any state with no hash in progress, the three configuration writes in any order, then
HASH (or HASH.L), then reads of STATUS and RESULT return 3 and hash32 of the bytes at the written BASE. -/
def Obligations.CallingSequenceReturnsHash : Prop :=
  ∀ (s : State) (a n seed : Word) (data : Nat → Byte) (config rest : List HostMove) l,
    s.inReset = false → hashInProgress s = false → (l = true → s.cfg.hasLanes = true) →
    (∀ i, i < n.toNat → s.view.read (a + BitVec.ofNat 32 i) = some (data i)) →
    config.Perm [windowWrite s 0x10 a, windowWrite s 0x0C n, windowWrite s 0x08 seed] →
    s.pending = config ++ cmdWrite s (encode (.hash l)) :: windowRead s 0x04 :: windowRead s 0x24 :: rest →
    ∃ t u, Host.Core.run Sys2Proof.core 5 s = .next t ∧ t.readData = some 0x00000003#32 ∧
      Host.Core.run Sys2Proof.core 6 s = .next u ∧ u.readData = some (hash32 data n seed)
end

