-- ==== Sys2Proof/Laws/Memory.lean ====
section
/-! SUPPORT. The laws of the input view: a change is read back at its address and nowhere else, and the canonical form is
kept. -/

namespace Sys2Proof.Machine.Memory

theorem lookupKey_insertKey_self (v : Memory) (a : Nat) (b : Byte) : lookupKey (insertKey v a b) a = some b := by
  induction v with
  | nil => simp [insertKey, lookupKey]
  | cons x rest ih =>
    obtain ⟨c, y⟩ := x
    simp only [insertKey]
    split
    · simp [lookupKey]
    · split
      · simp [lookupKey]
      · have hc : c ≠ a := fun h => absurd h.symm (by assumption)
        simp [lookupKey, hc, ih]

theorem lookupKey_insertKey_ne (v : Memory) (a c : Nat) (b : Byte) (hne : c ≠ a) :
    lookupKey (insertKey v a b) c = lookupKey v c := by
  induction v with
  | nil => simp [insertKey, lookupKey, hne.symm]
  | cons x rest ih =>
    obtain ⟨d, y⟩ := x
    simp only [insertKey]
    split
    · simp [lookupKey, hne.symm]
    · split
      · rename_i h; subst h; simp [lookupKey, hne.symm]
      · simp [lookupKey, ih]

theorem lookupKey_filter_self (v : Memory) (a : Nat) : lookupKey (v.filter (fun x => x.1 ≠ a)) a = none := by
  induction v with
  | nil => rfl
  | cons x rest ih =>
    by_cases h : x.1 = a
    · simp only [List.filter_cons, h]; simpa using ih
    · simp only [List.filter_cons]; simpa [h, lookupKey] using ih

theorem lookupKey_filter_ne (v : Memory) (a c : Nat) (hne : c ≠ a) :
    lookupKey (v.filter (fun x => x.1 ≠ a)) c = lookupKey v c := by
  induction v with
  | nil => rfl
  | cons x rest ih =>
    obtain ⟨d, y⟩ := x
    by_cases h : d = a
    · subst h; simpa [lookupKey, hne.symm] using ih
    · by_cases hd : d = c
      · subst hd; simp [lookupKey, hne]
      · simpa [h, lookupKey, hd] using ih

/-- The address changed reads as what was put there (R61). -/
theorem read_set_self (v : Memory) (a : Word) (b : Option Byte) : (v.set a b).read a = b := by
  cases b with
  | some b => exact lookupKey_insertKey_self v a.toNat b
  | none => exact lookupKey_filter_self v a.toNat

/-- Every other address reads as before. -/
theorem read_set_ne (v : Memory) (a c : Word) (b : Option Byte) (hne : c ≠ a) : (v.set a b).read c = v.read c := by
  have hn : c.toNat ≠ a.toNat := fun h => hne (BitVec.eq_of_toNat_eq h)
  cases b with
  | some b => exact lookupKey_insertKey_ne v a.toNat c.toNat b hn
  | none => exact lookupKey_filter_ne v a.toNat c.toNat hn

theorem mem_insertKey (v : Memory) (a : Nat) (b : Byte) (x : Host.Cell) (hx : x ∈ insertKey v a b) :
    x = (a, b) ∨ x ∈ v := by
  induction v with
  | nil => simpa [insertKey] using hx
  | cons y rest ih =>
    obtain ⟨c, z⟩ := y
    simp only [insertKey] at hx
    split at hx
    · simpa using hx
    · split at hx
      · rcases List.mem_cons.mp hx with h | h
        · exact .inl h
        · exact .inr (List.mem_cons_of_mem _ h)
      · rcases List.mem_cons.mp hx with h | h
        · exact .inr (h ▸ List.mem_cons_self)
        · rcases ih h with h | h
          · exact .inl h
          · exact .inr (List.mem_cons_of_mem _ h)

theorem insertKey_sorted (v : Memory) (a : Nat) (b : Byte) (hv : v.Pairwise (fun x y => x.1 < y.1)) :
    (insertKey v a b).Pairwise (fun x y => x.1 < y.1) := by
  induction v with
  | nil => simp [insertKey]
  | cons y rest ih =>
    obtain ⟨c, z⟩ := y
    obtain ⟨hlow, hrest⟩ := List.pairwise_cons.mp hv
    simp only [insertKey]
    split
    · rename_i hac
      refine List.pairwise_cons.mpr ⟨fun x hx => ?_, hv⟩
      rcases List.mem_cons.mp hx with h | h
      · subst h; exact hac
      · exact hac.trans (hlow x h)
    · split
      · rename_i hac
        exact List.pairwise_cons.mpr ⟨fun x hx => by simpa [hac] using hlow x hx, hrest⟩
      · refine List.pairwise_cons.mpr ⟨fun x hx => ?_, ih hrest⟩
        rcases mem_insertKey rest a b x hx with h | h
        · subst h; simp; omega
        · exact hlow x h

theorem wf_iff (v : Memory) : wf v = true ↔ v.Pairwise (fun x y => x.1 < y.1) ∧ ∀ x ∈ v, x.1 < 2 ^ 32 := by
  simp [wf]

/-- Every change of the view keeps its canonical form. -/
theorem wf_set (v : Memory) (a : Word) (b : Option Byte) (hv : wf v = true) : wf (v.set a b) = true := by
  obtain ⟨hs, hb⟩ := (wf_iff v).mp hv
  refine (wf_iff _).mpr ?_
  cases b with
  | some b =>
    refine ⟨insertKey_sorted v a.toNat b hs, fun x hx => ?_⟩
    rcases mem_insertKey v a.toNat b x hx with h | h
    · subst h; exact a.isLt
    · exact hb x h
  | none => exact ⟨hs.filter _, fun x hx => hb x (List.mem_filter.mp hx).1⟩

theorem wf_nil : wf [] = true := rfl

end Sys2Proof.Machine.Memory
end

