-- ==== Sys2Proof/Laws/State.lean ====
section
/-! SUPPORT. What each named update of State makes of each field: one lemma per field and update, so that no later proof
unfolds a record update. -/

namespace Sys2Proof.Machine

/-! ## clearError -/

@[simp] theorem clearError_cfg (s : State) : (clearError s).cfg = s.cfg := rfl
@[simp] theorem clearError_view (s : State) : (clearError s).view = s.view := rfl
@[simp] theorem clearError_seed (s : State) : (clearError s).seed = s.seed := rfl
@[simp] theorem clearError_len (s : State) : (clearError s).len = s.len := rfl
@[simp] theorem clearError_base (s : State) : (clearError s).base = s.base := rfl
@[simp] theorem clearError_off (s : State) : (clearError s).off = s.off := rfl
@[simp] theorem clearError_h (s : State) : (clearError s).h = s.h := rfl
@[simp] theorem clearError_k (s : State) : (clearError s).k = s.k := rfl
@[simp] theorem clearError_m (s : State) : (clearError s).m = s.m := rfl
@[simp] theorem clearError_result (s : State) : (clearError s).result = s.result := rfl
@[simp] theorem clearError_lane0 (s : State) : (clearError s).lane0 = s.lane0 := rfl
@[simp] theorem clearError_lane1 (s : State) : (clearError s).lane1 = s.lane1 := rfl
@[simp] theorem clearError_lane2 (s : State) : (clearError s).lane2 = s.lane2 := rfl
@[simp] theorem clearError_lane3 (s : State) : (clearError s).lane3 = s.lane3 := rfl
@[simp] theorem clearError_phase (s : State) : (clearError s).phase = s.phase := rfl
@[simp] theorem clearError_err (s : State) : (clearError s).err = false := rfl
@[simp] theorem clearError_errCode (s : State) : (clearError s).errCode = .none := rfl
@[simp] theorem clearError_errInfo (s : State) : (clearError s).errInfo = 0#32 := rfl
@[simp] theorem clearError_errAddr (s : State) : (clearError s).errAddr = 0#32 := rfl
@[simp] theorem clearError_inReset (s : State) : (clearError s).inReset = s.inReset := rfl
@[simp] theorem clearError_pending (s : State) : (clearError s).pending = s.pending := rfl
@[simp] theorem clearError_readData (s : State) : (clearError s).readData = s.readData := rfl

/-! ## startHash -/

@[simp] theorem startHash_cfg (s : State) : (startHash s).cfg = s.cfg := rfl
@[simp] theorem startHash_view (s : State) : (startHash s).view = s.view := rfl
@[simp] theorem startHash_seed (s : State) : (startHash s).seed = s.seed := rfl
@[simp] theorem startHash_len (s : State) : (startHash s).len = s.len := rfl
@[simp] theorem startHash_base (s : State) : (startHash s).base = s.base := rfl
@[simp] theorem startHash_off (s : State) : (startHash s).off = 0#32 := rfl
@[simp] theorem startHash_h (s : State) : (startHash s).h = s.seed := rfl
@[simp] theorem startHash_k (s : State) : (startHash s).k = 0#32 := rfl
@[simp] theorem startHash_m (s : State) : (startHash s).m = 0#32 := rfl
@[simp] theorem startHash_result (s : State) : (startHash s).result = 0#32 := rfl
@[simp] theorem startHash_lane0 (s : State) : (startHash s).lane0 = 0#32 := rfl
@[simp] theorem startHash_lane1 (s : State) : (startHash s).lane1 = 0#32 := rfl
@[simp] theorem startHash_lane2 (s : State) : (startHash s).lane2 = 0#32 := rfl
@[simp] theorem startHash_lane3 (s : State) : (startHash s).lane3 = 0#32 := rfl
@[simp] theorem startHash_phase (s : State) : (startHash s).phase = .body := rfl
@[simp] theorem startHash_err (s : State) : (startHash s).err = false := rfl
@[simp] theorem startHash_errCode (s : State) : (startHash s).errCode = .none := rfl
@[simp] theorem startHash_errInfo (s : State) : (startHash s).errInfo = 0#32 := rfl
@[simp] theorem startHash_errAddr (s : State) : (startHash s).errAddr = 0#32 := rfl
@[simp] theorem startHash_inReset (s : State) : (startHash s).inReset = s.inReset := rfl
@[simp] theorem startHash_pending (s : State) : (startHash s).pending = s.pending := rfl
@[simp] theorem startHash_readData (s : State) : (startHash s).readData = s.readData := rfl

/-! ## foldGroup -/

@[simp] theorem foldGroup_cfg (g : Word) (s : State) : (foldGroup g s).cfg = s.cfg := rfl
@[simp] theorem foldGroup_view (g : Word) (s : State) : (foldGroup g s).view = s.view := rfl
@[simp] theorem foldGroup_seed (g : Word) (s : State) : (foldGroup g s).seed = s.seed := rfl
@[simp] theorem foldGroup_len (g : Word) (s : State) : (foldGroup g s).len = s.len := rfl
@[simp] theorem foldGroup_base (g : Word) (s : State) : (foldGroup g s).base = s.base := rfl
@[simp] theorem foldGroup_off (g : Word) (s : State) : (foldGroup g s).off = s.off + 4#32 := rfl
@[simp] theorem foldGroup_h (g : Word) (s : State) : (foldGroup g s).h = foldH s.h (mixK g) := rfl
@[simp] theorem foldGroup_k (g : Word) (s : State) : (foldGroup g s).k = g := rfl
@[simp] theorem foldGroup_m (g : Word) (s : State) : (foldGroup g s).m = mixK g := rfl
@[simp] theorem foldGroup_result (g : Word) (s : State) : (foldGroup g s).result = s.result := rfl
@[simp] theorem foldGroup_lane0 (g : Word) (s : State) : (foldGroup g s).lane0 = s.lane0 := rfl
@[simp] theorem foldGroup_lane1 (g : Word) (s : State) : (foldGroup g s).lane1 = s.lane1 := rfl
@[simp] theorem foldGroup_lane2 (g : Word) (s : State) : (foldGroup g s).lane2 = s.lane2 := rfl
@[simp] theorem foldGroup_lane3 (g : Word) (s : State) : (foldGroup g s).lane3 = s.lane3 := rfl
@[simp] theorem foldGroup_phase (g : Word) (s : State) : (foldGroup g s).phase = s.phase := rfl
@[simp] theorem foldGroup_err (g : Word) (s : State) : (foldGroup g s).err = s.err := rfl
@[simp] theorem foldGroup_errCode (g : Word) (s : State) : (foldGroup g s).errCode = s.errCode := rfl
@[simp] theorem foldGroup_errInfo (g : Word) (s : State) : (foldGroup g s).errInfo = s.errInfo := rfl
@[simp] theorem foldGroup_errAddr (g : Word) (s : State) : (foldGroup g s).errAddr = s.errAddr := rfl
@[simp] theorem foldGroup_inReset (g : Word) (s : State) : (foldGroup g s).inReset = s.inReset := rfl
@[simp] theorem foldGroup_pending (g : Word) (s : State) : (foldGroup g s).pending = s.pending := rfl
@[simp] theorem foldGroup_readData (g : Word) (s : State) : (foldGroup g s).readData = s.readData := rfl

/-! ## foldBlock -/

@[simp] theorem foldBlock_cfg (b : Block) (s : State) : (foldBlock b s).cfg = s.cfg := rfl
@[simp] theorem foldBlock_view (b : Block) (s : State) : (foldBlock b s).view = s.view := rfl
@[simp] theorem foldBlock_seed (b : Block) (s : State) : (foldBlock b s).seed = s.seed := rfl
@[simp] theorem foldBlock_len (b : Block) (s : State) : (foldBlock b s).len = s.len := rfl
@[simp] theorem foldBlock_base (b : Block) (s : State) : (foldBlock b s).base = s.base := rfl
@[simp] theorem foldBlock_off (b : Block) (s : State) : (foldBlock b s).off = s.off + 16#32 := rfl
@[simp] theorem foldBlock_h (b : Block) (s : State) : (foldBlock b s).h = foldLanes s.h b := rfl
@[simp] theorem foldBlock_k (b : Block) (s : State) : (foldBlock b s).k = b.g3 := rfl
@[simp] theorem foldBlock_m (b : Block) (s : State) : (foldBlock b s).m = mixK b.g3 := rfl
@[simp] theorem foldBlock_result (b : Block) (s : State) : (foldBlock b s).result = s.result := rfl
@[simp] theorem foldBlock_lane0 (b : Block) (s : State) : (foldBlock b s).lane0 = mixK b.g0 := rfl
@[simp] theorem foldBlock_lane1 (b : Block) (s : State) : (foldBlock b s).lane1 = mixK b.g1 := rfl
@[simp] theorem foldBlock_lane2 (b : Block) (s : State) : (foldBlock b s).lane2 = mixK b.g2 := rfl
@[simp] theorem foldBlock_lane3 (b : Block) (s : State) : (foldBlock b s).lane3 = mixK b.g3 := rfl
@[simp] theorem foldBlock_phase (b : Block) (s : State) : (foldBlock b s).phase = s.phase := rfl
@[simp] theorem foldBlock_err (b : Block) (s : State) : (foldBlock b s).err = s.err := rfl
@[simp] theorem foldBlock_errCode (b : Block) (s : State) : (foldBlock b s).errCode = s.errCode := rfl
@[simp] theorem foldBlock_errInfo (b : Block) (s : State) : (foldBlock b s).errInfo = s.errInfo := rfl
@[simp] theorem foldBlock_errAddr (b : Block) (s : State) : (foldBlock b s).errAddr = s.errAddr := rfl
@[simp] theorem foldBlock_inReset (b : Block) (s : State) : (foldBlock b s).inReset = s.inReset := rfl
@[simp] theorem foldBlock_pending (b : Block) (s : State) : (foldBlock b s).pending = s.pending := rfl
@[simp] theorem foldBlock_readData (b : Block) (s : State) : (foldBlock b s).readData = s.readData := rfl

/-! ## foldTail -/

@[simp] theorem foldTail_cfg (g : Word) (s : State) : (foldTail g s).cfg = s.cfg := rfl
@[simp] theorem foldTail_view (g : Word) (s : State) : (foldTail g s).view = s.view := rfl
@[simp] theorem foldTail_seed (g : Word) (s : State) : (foldTail g s).seed = s.seed := rfl
@[simp] theorem foldTail_len (g : Word) (s : State) : (foldTail g s).len = s.len := rfl
@[simp] theorem foldTail_base (g : Word) (s : State) : (foldTail g s).base = s.base := rfl
@[simp] theorem foldTail_off (g : Word) (s : State) : (foldTail g s).off = s.len := rfl
@[simp] theorem foldTail_h (g : Word) (s : State) : (foldTail g s).h = s.h ^^^ mixK g := rfl
@[simp] theorem foldTail_k (g : Word) (s : State) : (foldTail g s).k = g := rfl
@[simp] theorem foldTail_m (g : Word) (s : State) : (foldTail g s).m = mixK g := rfl
@[simp] theorem foldTail_result (g : Word) (s : State) : (foldTail g s).result = s.result := rfl
@[simp] theorem foldTail_lane0 (g : Word) (s : State) : (foldTail g s).lane0 = s.lane0 := rfl
@[simp] theorem foldTail_lane1 (g : Word) (s : State) : (foldTail g s).lane1 = s.lane1 := rfl
@[simp] theorem foldTail_lane2 (g : Word) (s : State) : (foldTail g s).lane2 = s.lane2 := rfl
@[simp] theorem foldTail_lane3 (g : Word) (s : State) : (foldTail g s).lane3 = s.lane3 := rfl
@[simp] theorem foldTail_phase (g : Word) (s : State) : (foldTail g s).phase = .tailed := rfl
@[simp] theorem foldTail_err (g : Word) (s : State) : (foldTail g s).err = s.err := rfl
@[simp] theorem foldTail_errCode (g : Word) (s : State) : (foldTail g s).errCode = s.errCode := rfl
@[simp] theorem foldTail_errInfo (g : Word) (s : State) : (foldTail g s).errInfo = s.errInfo := rfl
@[simp] theorem foldTail_errAddr (g : Word) (s : State) : (foldTail g s).errAddr = s.errAddr := rfl
@[simp] theorem foldTail_inReset (g : Word) (s : State) : (foldTail g s).inReset = s.inReset := rfl
@[simp] theorem foldTail_pending (g : Word) (s : State) : (foldTail g s).pending = s.pending := rfl
@[simp] theorem foldTail_readData (g : Word) (s : State) : (foldTail g s).readData = s.readData := rfl

/-! ## closeBody -/

@[simp] theorem closeBody_cfg (s : State) : (closeBody s).cfg = s.cfg := rfl
@[simp] theorem closeBody_view (s : State) : (closeBody s).view = s.view := rfl
@[simp] theorem closeBody_seed (s : State) : (closeBody s).seed = s.seed := rfl
@[simp] theorem closeBody_len (s : State) : (closeBody s).len = s.len := rfl
@[simp] theorem closeBody_base (s : State) : (closeBody s).base = s.base := rfl
@[simp] theorem closeBody_off (s : State) : (closeBody s).off = s.off := rfl
@[simp] theorem closeBody_h (s : State) : (closeBody s).h = s.h := rfl
@[simp] theorem closeBody_k (s : State) : (closeBody s).k = s.k := rfl
@[simp] theorem closeBody_m (s : State) : (closeBody s).m = s.m := rfl
@[simp] theorem closeBody_result (s : State) : (closeBody s).result = s.result := rfl
@[simp] theorem closeBody_lane0 (s : State) : (closeBody s).lane0 = s.lane0 := rfl
@[simp] theorem closeBody_lane1 (s : State) : (closeBody s).lane1 = s.lane1 := rfl
@[simp] theorem closeBody_lane2 (s : State) : (closeBody s).lane2 = s.lane2 := rfl
@[simp] theorem closeBody_lane3 (s : State) : (closeBody s).lane3 = s.lane3 := rfl
@[simp] theorem closeBody_phase (s : State) : (closeBody s).phase = .tailed := rfl
@[simp] theorem closeBody_err (s : State) : (closeBody s).err = s.err := rfl
@[simp] theorem closeBody_errCode (s : State) : (closeBody s).errCode = s.errCode := rfl
@[simp] theorem closeBody_errInfo (s : State) : (closeBody s).errInfo = s.errInfo := rfl
@[simp] theorem closeBody_errAddr (s : State) : (closeBody s).errAddr = s.errAddr := rfl
@[simp] theorem closeBody_inReset (s : State) : (closeBody s).inReset = s.inReset := rfl
@[simp] theorem closeBody_pending (s : State) : (closeBody s).pending = s.pending := rfl
@[simp] theorem closeBody_readData (s : State) : (closeBody s).readData = s.readData := rfl

/-! ## finishHash -/

@[simp] theorem finishHash_cfg (s : State) : (finishHash s).cfg = s.cfg := rfl
@[simp] theorem finishHash_view (s : State) : (finishHash s).view = s.view := rfl
@[simp] theorem finishHash_seed (s : State) : (finishHash s).seed = s.seed := rfl
@[simp] theorem finishHash_len (s : State) : (finishHash s).len = s.len := rfl
@[simp] theorem finishHash_base (s : State) : (finishHash s).base = s.base := rfl
@[simp] theorem finishHash_off (s : State) : (finishHash s).off = s.off := rfl
@[simp] theorem finishHash_h (s : State) : (finishHash s).h = fmix (s.h ^^^ s.len) := rfl
@[simp] theorem finishHash_k (s : State) : (finishHash s).k = s.k := rfl
@[simp] theorem finishHash_m (s : State) : (finishHash s).m = s.m := rfl
@[simp] theorem finishHash_result (s : State) : (finishHash s).result = fmix (s.h ^^^ s.len) := rfl
@[simp] theorem finishHash_lane0 (s : State) : (finishHash s).lane0 = s.lane0 := rfl
@[simp] theorem finishHash_lane1 (s : State) : (finishHash s).lane1 = s.lane1 := rfl
@[simp] theorem finishHash_lane2 (s : State) : (finishHash s).lane2 = s.lane2 := rfl
@[simp] theorem finishHash_lane3 (s : State) : (finishHash s).lane3 = s.lane3 := rfl
@[simp] theorem finishHash_phase (s : State) : (finishHash s).phase = .done := rfl
@[simp] theorem finishHash_err (s : State) : (finishHash s).err = s.err := rfl
@[simp] theorem finishHash_errCode (s : State) : (finishHash s).errCode = s.errCode := rfl
@[simp] theorem finishHash_errInfo (s : State) : (finishHash s).errInfo = s.errInfo := rfl
@[simp] theorem finishHash_errAddr (s : State) : (finishHash s).errAddr = s.errAddr := rfl
@[simp] theorem finishHash_inReset (s : State) : (finishHash s).inReset = s.inReset := rfl
@[simp] theorem finishHash_pending (s : State) : (finishHash s).pending = s.pending := rfl
@[simp] theorem finishHash_readData (s : State) : (finishHash s).readData = s.readData := rfl

/-! ## resetRegisters -/

@[simp] theorem resetRegisters_cfg (s : State) : (resetRegisters s).cfg = s.cfg := rfl
@[simp] theorem resetRegisters_view (s : State) : (resetRegisters s).view = s.view := rfl
@[simp] theorem resetRegisters_seed (s : State) : (resetRegisters s).seed = 0#32 := rfl
@[simp] theorem resetRegisters_len (s : State) : (resetRegisters s).len = 0#32 := rfl
@[simp] theorem resetRegisters_base (s : State) : (resetRegisters s).base = 0#32 := rfl
@[simp] theorem resetRegisters_off (s : State) : (resetRegisters s).off = 0#32 := rfl
@[simp] theorem resetRegisters_h (s : State) : (resetRegisters s).h = 0#32 := rfl
@[simp] theorem resetRegisters_k (s : State) : (resetRegisters s).k = 0#32 := rfl
@[simp] theorem resetRegisters_m (s : State) : (resetRegisters s).m = 0#32 := rfl
@[simp] theorem resetRegisters_result (s : State) : (resetRegisters s).result = 0#32 := rfl
@[simp] theorem resetRegisters_lane0 (s : State) : (resetRegisters s).lane0 = 0#32 := rfl
@[simp] theorem resetRegisters_lane1 (s : State) : (resetRegisters s).lane1 = 0#32 := rfl
@[simp] theorem resetRegisters_lane2 (s : State) : (resetRegisters s).lane2 = 0#32 := rfl
@[simp] theorem resetRegisters_lane3 (s : State) : (resetRegisters s).lane3 = 0#32 := rfl
@[simp] theorem resetRegisters_phase (s : State) : (resetRegisters s).phase = .idle := rfl
@[simp] theorem resetRegisters_err (s : State) : (resetRegisters s).err = false := rfl
@[simp] theorem resetRegisters_errCode (s : State) : (resetRegisters s).errCode = .none := rfl
@[simp] theorem resetRegisters_errInfo (s : State) : (resetRegisters s).errInfo = 0#32 := rfl
@[simp] theorem resetRegisters_errAddr (s : State) : (resetRegisters s).errAddr = 0#32 := rfl
@[simp] theorem resetRegisters_inReset (s : State) : (resetRegisters s).inReset = s.inReset := rfl
@[simp] theorem resetRegisters_pending (s : State) : (resetRegisters s).pending = s.pending := rfl
@[simp] theorem resetRegisters_readData (s : State) : (resetRegisters s).readData = s.readData := rfl

/-! ## raiseError: only the error record can change (R186) -/

@[simp] theorem raiseError_cfg (r : Raised) (s : State) : (raiseError r s).cfg = s.cfg := by
  unfold raiseError; split <;> rfl
@[simp] theorem raiseError_view (r : Raised) (s : State) : (raiseError r s).view = s.view := by
  unfold raiseError; split <;> rfl
@[simp] theorem raiseError_seed (r : Raised) (s : State) : (raiseError r s).seed = s.seed := by
  unfold raiseError; split <;> rfl
@[simp] theorem raiseError_len (r : Raised) (s : State) : (raiseError r s).len = s.len := by
  unfold raiseError; split <;> rfl
@[simp] theorem raiseError_base (r : Raised) (s : State) : (raiseError r s).base = s.base := by
  unfold raiseError; split <;> rfl
@[simp] theorem raiseError_off (r : Raised) (s : State) : (raiseError r s).off = s.off := by
  unfold raiseError; split <;> rfl
@[simp] theorem raiseError_h (r : Raised) (s : State) : (raiseError r s).h = s.h := by
  unfold raiseError; split <;> rfl
@[simp] theorem raiseError_k (r : Raised) (s : State) : (raiseError r s).k = s.k := by
  unfold raiseError; split <;> rfl
@[simp] theorem raiseError_m (r : Raised) (s : State) : (raiseError r s).m = s.m := by
  unfold raiseError; split <;> rfl
@[simp] theorem raiseError_result (r : Raised) (s : State) : (raiseError r s).result = s.result := by
  unfold raiseError; split <;> rfl
@[simp] theorem raiseError_lane0 (r : Raised) (s : State) : (raiseError r s).lane0 = s.lane0 := by
  unfold raiseError; split <;> rfl
@[simp] theorem raiseError_lane1 (r : Raised) (s : State) : (raiseError r s).lane1 = s.lane1 := by
  unfold raiseError; split <;> rfl
@[simp] theorem raiseError_lane2 (r : Raised) (s : State) : (raiseError r s).lane2 = s.lane2 := by
  unfold raiseError; split <;> rfl
@[simp] theorem raiseError_lane3 (r : Raised) (s : State) : (raiseError r s).lane3 = s.lane3 := by
  unfold raiseError; split <;> rfl
@[simp] theorem raiseError_phase (r : Raised) (s : State) : (raiseError r s).phase = s.phase := by
  unfold raiseError; split <;> rfl
@[simp] theorem raiseError_inReset (r : Raised) (s : State) : (raiseError r s).inReset = s.inReset := by
  unfold raiseError; split <;> rfl
@[simp] theorem raiseError_pending (r : Raised) (s : State) : (raiseError r s).pending = s.pending := by
  unfold raiseError; split <;> rfl
@[simp] theorem raiseError_readData (r : Raised) (s : State) : (raiseError r s).readData = s.readData := by
  unfold raiseError; split <;> rfl

@[simp] theorem raiseError_err (r : Raised) (s : State) : (raiseError r s).err = true := by
  unfold raiseError; split <;> simp_all

theorem raiseError_of_err (r : Raised) (s : State) (he : s.err = true) : raiseError r s = s := by
  simp [raiseError, he]

theorem raiseError_of_no_err (r : Raised) (s : State) (he : s.err = false) :
    raiseError r s = { s with err := true, errCode := r.code, errInfo := r.info, errAddr := r.addr } := by
  simp [raiseError, he]

end Sys2Proof.Machine
end

