-- ==== Sys2Proof/Laws/Ops.lean ====
section
/-! SUPPORT. One lemma per shared operation that says everything it can do: reading input bytes, and the bodies of CHUNK,
LANE4, TAIL and FINAL with each of their errors. Later proofs cite these instead of unfolding the operations. -/

namespace Sys2Proof.Machine

/-! ## Reading input bytes -/

theorem readByte_ok {s : State} {j : Nat} {b : Byte} :
    readByte s j = .ok b ↔ s.view.read (inputAddr s j) = some b := by
  unfold readByte
  cases s.view.read (inputAddr s j) <;> simp

theorem readByte_error {s : State} {j : Nat} {a : Word} :
    readByte s j = .error a ↔ s.view.read (inputAddr s j) = none ∧ a = inputAddr s j := by
  unfold readByte
  cases s.view.read (inputAddr s j) <;> simp [eq_comm]

/-- The `n` bytes from the current position plus `p` on are readable and are `bytes`. -/
def BytesAt (s : State) (p n : Nat) (bytes : Nat → Byte) : Prop :=
  ∀ i, i < n → s.view.read (inputAddr s (p + i)) = some (bytes i)

theorem readGroup_of_bytes {s : State} {p : Nat} {bytes : Nat → Byte} (h : BytesAt s p 4 bytes) :
    readGroup s p = .ok (le32 (bytes 0) (bytes 1) (bytes 2) (bytes 3)) := by
  have h0 := readByte_ok.mpr (h 0 (by omega))
  have h1 := readByte_ok.mpr (h 1 (by omega))
  have h2 := readByte_ok.mpr (h 2 (by omega))
  have h3 := readByte_ok.mpr (h 3 (by omega))
  simp only [Nat.add_zero] at h0
  simp [readGroup, h0, h1, h2, h3, bind, Except.bind]

/-- A group that is read: its four bytes were readable. -/
theorem readGroup_ok {s : State} {p : Nat} {k : Word} (h : readGroup s p = .ok k) :
    ∃ bytes, BytesAt s p 4 bytes ∧ k = le32 (bytes 0) (bytes 1) (bytes 2) (bytes 3) := by
  simp only [readGroup, bind, Except.bind] at h
  split at h
  · cases h
  rename_i b0 h0
  split at h
  · cases h
  rename_i b1 h1
  split at h
  · cases h
  rename_i b2 h2
  split at h
  · cases h
  rename_i b3 h3
  refine ⟨fun i => if i = 0 then b0 else if i = 1 then b1 else if i = 2 then b2 else b3, ?_, by simpa using h.symm⟩
  intro i hi
  rcases (by omega : i = 0 ∨ i = 1 ∨ i = 2 ∨ i = 3) with rfl | rfl | rfl | rfl
  · simpa using readByte_ok.mp h0
  · simpa using readByte_ok.mp h1
  · simpa using readByte_ok.mp h2
  · simpa using readByte_ok.mp h3

/-- A group that is not read: the address reported is that of its first unreadable byte. -/
theorem readGroup_error {s : State} {p : Nat} {a : Word} (h : readGroup s p = .error a) :
    ∃ j, j < 4 ∧ (∀ i, i < j → ∃ b, s.view.read (inputAddr s (p + i)) = some b) ∧
      s.view.read (inputAddr s (p + j)) = none ∧ a = inputAddr s (p + j) := by
  simp only [readGroup, bind, Except.bind] at h
  split at h
  · rename_i h0; cases h
    obtain ⟨hn, rfl⟩ := readByte_error.mp h0
    exact ⟨0, by omega, fun i hi => by omega, by simpa using hn, by simp⟩
  rename_i b0 h0
  split at h
  · rename_i h1; cases h
    obtain ⟨hn, rfl⟩ := readByte_error.mp h1
    refine ⟨1, by omega, fun i hi => ?_, hn, rfl⟩
    obtain rfl : i = 0 := by omega
    exact ⟨b0, by simpa using readByte_ok.mp h0⟩
  rename_i b1 h1
  split at h
  · rename_i h2; cases h
    obtain ⟨hn, rfl⟩ := readByte_error.mp h2
    refine ⟨2, by omega, fun i hi => ?_, hn, rfl⟩
    rcases (by omega : i = 0 ∨ i = 1) with rfl | rfl
    · exact ⟨b0, by simpa using readByte_ok.mp h0⟩
    · exact ⟨b1, readByte_ok.mp h1⟩
  rename_i b2 h2
  split at h
  · rename_i h3; cases h
    obtain ⟨hn, rfl⟩ := readByte_error.mp h3
    refine ⟨3, by omega, fun i hi => ?_, hn, rfl⟩
    rcases (by omega : i = 0 ∨ i = 1 ∨ i = 2) with rfl | rfl | rfl
    · exact ⟨b0, by simpa using readByte_ok.mp h0⟩
    · exact ⟨b1, readByte_ok.mp h1⟩
    · exact ⟨b2, readByte_ok.mp h2⟩
  · cases h

theorem readBlock_of_bytes {s : State} {bytes : Nat → Byte} (h : BytesAt s 0 16 bytes) :
    readBlock s = .ok (blockAt bytes 0) := by
  have g : ∀ p, p + 4 ≤ 16 → readGroup s p = .ok (groupAt bytes p) := fun p hp => by
    have := readGroup_of_bytes (s := s) (p := p) (bytes := fun i => bytes (p + i))
      (fun i hi => by simpa using h (p + i) (by omega))
    simpa [groupAt] using this
  simp [readBlock, g 0 (by omega), g 4 (by omega), g 8 (by omega), g 12 (by omega), blockAt, bind, Except.bind]

/-- A block that is read: its sixteen bytes were readable. -/
theorem readBlock_ok {s : State} {b : Block} (h : readBlock s = .ok b) :
    readGroup s 0 = .ok b.g0 ∧ readGroup s 4 = .ok b.g1 ∧ readGroup s 8 = .ok b.g2 ∧ readGroup s 12 = .ok b.g3 := by
  simp only [readBlock, bind, Except.bind] at h
  split at h
  · cases h
  split at h
  · cases h
  split at h
  · cases h
  split at h
  · cases h
  cases h
  exact ⟨by assumption, by assumption, by assumption, by assumption⟩

/-- A block that is not read: the address reported is that of its first unreadable byte. -/
theorem readBlock_error {s : State} {a : Word} (h : readBlock s = .error a) : FirstUnreadable s 16 a := by
  have all : ∀ p k, readGroup s p = .ok k → ∀ i, p ≤ i → i < p + 4 → ∃ b, s.view.read (inputAddr s i) = some b :=
    fun p k hk i h1 h2 => by
      obtain ⟨bytes, hb, -⟩ := readGroup_ok hk
      exact ⟨_, by simpa [Nat.add_sub_cancel' h1] using hb (i - p) (by omega)⟩
  have fin : ∀ p, p + 4 ≤ 16 → (∀ i, i < p → ∃ b, s.view.read (inputAddr s i) = some b) →
      readGroup s p = .error a → FirstUnreadable s 16 a := fun p hp hlow hg => by
    obtain ⟨j, hj, hr, hn, rfl⟩ := readGroup_error hg
    refine ⟨p + j, by omega, fun i hi => ?_, hn, rfl⟩
    by_cases hip : i < p
    · exact hlow i hip
    · simpa [Nat.add_sub_cancel' (Nat.le_of_not_lt hip)] using hr (i - p) (by omega)
  simp only [readBlock, bind, Except.bind] at h
  split at h
  · rename_i h0; cases h; exact fin 0 (by omega) (fun i hi => by omega) h0
  rename_i h0
  split at h
  · rename_i h1; cases h; exact fin 4 (by omega) (fun i hi => all 0 _ h0 i (by omega) (by omega)) h1
  rename_i h1
  split at h
  · rename_i h2; cases h
    refine fin 8 (by omega) (fun i hi => ?_) h2
    by_cases hi4 : i < 4
    · exact all 0 _ h0 i (by omega) (by omega)
    · exact all 4 _ h1 i (by omega) (by omega)
  rename_i h2
  split at h
  · rename_i h3; cases h
    refine fin 12 (by omega) (fun i hi => ?_) h3
    by_cases hi4 : i < 4
    · exact all 0 _ h0 i (by omega) (by omega)
    · by_cases hi8 : i < 8
      · exact all 4 _ h1 i (by omega) (by omega)
      · exact all 8 _ h2 i (by omega) (by omega)
  · cases h

theorem readTailByte_of_lt {s : State} {rem j : Nat} (hj : j < rem) : readTailByte s rem j = readByte s j := by
  simp [readTailByte, hj]

theorem readTailByte_of_ge {s : State} {rem j : Nat} (hj : rem ≤ j) : readTailByte s rem j = .ok 0#8 := by
  simp [readTailByte, Nat.not_lt.mpr hj]

theorem readTail_of_bytes {s : State} {rem : Nat} {bytes : Nat → Byte} (h1 : 1 ≤ rem) (h : BytesAt s 0 rem bytes) :
    readTail s rem = .ok (tailK rem (bytes 0) (bytes 1) (bytes 2)) := by
  have rd : ∀ j, j < rem → readTailByte s rem j = .ok (bytes j) := fun j hj => by
    rw [readTailByte_of_lt hj]; exact readByte_ok.mpr (by simpa using h j hj)
  have r0 := rd 0 h1
  by_cases h2 : 2 ≤ rem
  · have r1 := rd 1 h2
    by_cases h3 : 3 ≤ rem
    · simp [readTail, r0, r1, rd 2 h3, bind, Except.bind]
    · have r2 := readTailByte_of_ge (s := s) (show rem ≤ 2 by omega)
      simp [readTail, r0, r1, r2, h3, tailK, bind, Except.bind]
  · have r1 := readTailByte_of_ge (s := s) (show rem ≤ 1 by omega)
    have r2 := readTailByte_of_ge (s := s) (show rem ≤ 2 by omega)
    simp [readTail, r0, r1, r2, h2, show ¬ 3 ≤ rem by omega, tailK, bind, Except.bind]

/-- A tail that is read: its bytes were readable. -/
theorem readTail_ok {s : State} {rem : Nat} {k : Word} (hle : rem ≤ 3) (h : readTail s rem = .ok k) :
    ∃ bytes, BytesAt s 0 rem bytes ∧ k = tailK rem (bytes 0) (bytes 1) (bytes 2) := by
  simp only [readTail, bind, Except.bind] at h
  split at h
  · cases h
  rename_i b0 h0
  split at h
  · cases h
  rename_i b1 h1
  split at h
  · cases h
  rename_i b2 h2
  refine ⟨fun i => if i = 0 then b0 else if i = 1 then b1 else b2, fun i hi => ?_, by simpa using h.symm⟩
  rcases (by omega : i = 0 ∨ i = 1 ∨ i = 2) with rfl | rfl | rfl
  · rw [readTailByte_of_lt hi] at h0; simpa using readByte_ok.mp h0
  · rw [readTailByte_of_lt hi] at h1; simpa using readByte_ok.mp h1
  · rw [readTailByte_of_lt hi] at h2; simpa using readByte_ok.mp h2

theorem readTailByte_error {s : State} {rem j : Nat} {a : Word} (h : readTailByte s rem j = .error a) :
    j < rem ∧ s.view.read (inputAddr s j) = none ∧ a = inputAddr s j := by
  by_cases hj : j < rem
  · rw [readTailByte_of_lt hj] at h; exact ⟨hj, readByte_error.mp h⟩
  · simp [readTailByte, hj] at h

/-- A tail that is not read: the address reported is that of its first unreadable byte. -/
theorem readTail_error {s : State} {rem : Nat} {a : Word} (h : readTail s rem = .error a) : FirstUnreadable s rem a := by
  simp only [readTail, bind, Except.bind] at h
  split at h
  · rename_i h0; cases h
    obtain ⟨hj, hn, ha⟩ := readTailByte_error h0
    exact ⟨0, hj, fun i hi => by omega, hn, ha⟩
  rename_i b0 h0
  split at h
  · rename_i h1; cases h
    obtain ⟨hj, hn, ha⟩ := readTailByte_error h1
    refine ⟨1, hj, fun i hi => ?_, hn, ha⟩
    obtain rfl : i = 0 := by omega
    rw [readTailByte_of_lt (by omega)] at h0
    exact ⟨b0, readByte_ok.mp h0⟩
  rename_i b1 h1
  split at h
  · rename_i h2; cases h
    obtain ⟨hj, hn, ha⟩ := readTailByte_error h2
    rw [readTailByte_of_lt (by omega)] at h0 h1
    refine ⟨2, hj, fun i hi => ?_, hn, ha⟩
    rcases (by omega : i = 0 ∨ i = 1) with rfl | rfl
    · exact ⟨b0, readByte_ok.mp h0⟩
    · exact ⟨b1, readByte_ok.mp h1⟩
  · cases h

/-! ## The bodies of the commands -/

/-- Everything CHUNK's body can do. -/
theorem chunkBody_cases (w : Word) (s : State) :
    (s.phase ≠ .body ∧ chunkBody w s = .error ⟨.sequence, w, 0#32⟩) ∨
    (s.phase = .body ∧ remaining s < 4 ∧ chunkBody w s = .error ⟨.bounds, w, 0#32⟩) ∨
    (s.phase = .body ∧ 4 ≤ remaining s ∧ ∃ a, FirstUnreadable s 4 a ∧ chunkBody w s = .error ⟨.viewFault, w, a⟩) ∨
    (s.phase = .body ∧ 4 ≤ remaining s ∧ ∃ bytes, BytesAt s 0 4 bytes ∧
      chunkBody w s = .ok (foldGroup (groupAt bytes 0) s)) := by
  unfold chunkBody
  by_cases hp : s.phase = .body
  · by_cases hr : remaining s < 4
    · exact .inr (.inl ⟨hp, hr, by simp [hp, hr]⟩)
    · right; right
      cases hg : readGroup s 0 with
      | error a =>
        obtain ⟨j, hj, h1, h2, h3⟩ := readGroup_error hg
        exact .inl ⟨hp, by omega, a, ⟨j, hj, by simpa using h1, by simpa using h2, by simpa using h3⟩, by simp [hp, hr]⟩
      | ok k =>
        obtain ⟨bytes, hb, rfl⟩ := readGroup_ok hg
        exact .inr ⟨hp, by omega, bytes, hb, by simp [hp, hr, groupAt]⟩
  · exact .inl ⟨hp, by simp [hp]⟩

/-- Everything LANE4's body can do. -/
theorem lane4Body_cases (w : Word) (s : State) :
    (s.phase ≠ .body ∧ lane4Body w s = .error ⟨.sequence, w, 0#32⟩) ∨
    (s.phase = .body ∧ remaining s < 16 ∧ lane4Body w s = .error ⟨.bounds, w, 0#32⟩) ∨
    (s.phase = .body ∧ 16 ≤ remaining s ∧ ∃ a, FirstUnreadable s 16 a ∧ lane4Body w s = .error ⟨.viewFault, w, a⟩) ∨
    (s.phase = .body ∧ 16 ≤ remaining s ∧ ∃ bytes, BytesAt s 0 16 bytes ∧
      lane4Body w s = .ok (foldBlock (blockAt bytes 0) s)) := by
  unfold lane4Body
  by_cases hp : s.phase = .body
  · by_cases hr : remaining s < 16
    · exact .inr (.inl ⟨hp, hr, by simp [hp, hr]⟩)
    · right; right
      cases hg : readBlock s with
      | error a => exact .inl ⟨hp, by omega, a, readBlock_error hg, by simp [hp, hr]⟩
      | ok b =>
        obtain ⟨h0, h1, h2, h3⟩ := readBlock_ok hg
        obtain ⟨y0, hy0, -⟩ := readGroup_ok h0
        obtain ⟨y1, hy1, -⟩ := readGroup_ok h1
        obtain ⟨y2, hy2, -⟩ := readGroup_ok h2
        obtain ⟨y3, hy3, -⟩ := readGroup_ok h3
        have hb : BytesAt s 0 16 (fun i => if i < 4 then y0 i else if i < 8 then y1 (i - 4) else
            if i < 12 then y2 (i - 8) else y3 (i - 12)) := by
          intro i hi
          simp only [Nat.zero_add]
          split
          · simpa using hy0 i (by omega)
          · split
            · simpa [Nat.add_sub_cancel' (show 4 ≤ i by omega)] using hy1 (i - 4) (by omega)
            · split
              · simpa [Nat.add_sub_cancel' (show 8 ≤ i by omega)] using hy2 (i - 8) (by omega)
              · simpa [Nat.add_sub_cancel' (show 12 ≤ i by omega)] using hy3 (i - 12) (by omega)
        have hg' := readBlock_of_bytes hb
        refine .inr ⟨hp, by omega, _, hb, ?_⟩
        rw [hg] at hg'
        injection hg' with hg'
        simp [hp, hr, hg']
  · exact .inl ⟨hp, by simp [hp]⟩

/-- Everything TAIL's body can do. -/
theorem tailBody_cases (w : Word) (s : State) :
    (s.phase ≠ .body ∧ tailBody w s = .error ⟨.sequence, w, 0#32⟩) ∨
    (s.phase = .body ∧ 4 ≤ remaining s ∧ tailBody w s = .error ⟨.sequence, w, 0#32⟩) ∨
    (s.phase = .body ∧ remaining s = 0 ∧ tailBody w s = .ok (closeBody s)) ∨
    (s.phase = .body ∧ 1 ≤ remaining s ∧ remaining s ≤ 3 ∧ ∃ a, FirstUnreadable s (remaining s) a ∧
      tailBody w s = .error ⟨.viewFault, w, a⟩) ∨
    (s.phase = .body ∧ 1 ≤ remaining s ∧ remaining s ≤ 3 ∧ ∃ bytes, BytesAt s 0 (remaining s) bytes ∧
      tailBody w s = .ok (foldTail (tailK (remaining s) (bytes 0) (bytes 1) (bytes 2)) s)) := by
  unfold tailBody
  by_cases hp : s.phase = .body
  · by_cases hr : 4 ≤ remaining s
    · exact .inr (.inl ⟨hp, hr, by simp [hp, hr]⟩)
    · right; right
      by_cases h0 : remaining s = 0
      · exact .inl ⟨hp, h0, by simp [hp, h0]⟩
      · right
        cases hg : readTail s (remaining s) with
        | error a => exact .inl ⟨hp, by omega, by omega, a, readTail_error hg, by simp [hp, hr, h0]⟩
        | ok k =>
          obtain ⟨bytes, hb, rfl⟩ := readTail_ok (by omega) hg
          exact .inr ⟨hp, by omega, by omega, bytes, hb, by simp [hp, hr, h0]⟩
  · exact .inl ⟨hp, by simp [hp]⟩

/-- Everything FINAL's body can do. -/
theorem finalBody_cases (w : Word) (s : State) :
    (s.phase ≠ .tailed ∧ finalBody w s = .error ⟨.sequence, w, 0#32⟩) ∨
    (s.phase = .tailed ∧ finalBody w s = .ok (finishHash s)) := by
  by_cases hp : s.phase = .tailed
  · exact .inr ⟨hp, by simp [finalBody, hp]⟩
  · exact .inl ⟨hp, by simp [finalBody, hp]⟩

/-! ## Running a body -/

theorem perform_ok {body : State → Except Raised State} {s t : State} :
    perform body s = .ok t ↔ body s = .ok t := by
  unfold perform
  cases body s <;> simp

theorem perform_error {body : State → Except Raised State} {s t : State} :
    perform body s = .error t ↔ ∃ r, body s = .error r ∧ t = raiseError r s := by
  unfold perform
  cases body s <;> simp [eq_comm]

/-- Everything a command that is ignored while ERR = 1 can do: nothing, its body's effect, or its body's error recorded. -/
theorem runUnlessErr_cases (body : State → Except Raised State) (s : State) :
    (s.err = true ∧ runUnlessErr body s = .next s) ∨
    (s.err = false ∧ ∃ t, body s = .ok t ∧ runUnlessErr body s = .next t) ∨
    (s.err = false ∧ ∃ r, body s = .error r ∧ runUnlessErr body s = .next (raiseError r s)) := by
  unfold runUnlessErr
  cases he : s.err with
  | true => exact .inl ⟨rfl, rfl⟩
  | false =>
    right
    cases hb : body s with
    | ok t => exact .inl ⟨rfl, t, rfl, by simp [perform, hb, endState]⟩
    | error r => exact .inr ⟨rfl, r, rfl, by simp [perform, hb, endState]⟩

end Sys2Proof.Machine
end

