-- ==== Sys2Proof/Laws/PerInstr.lean ====
section
/-! SUPPORT. Statements made per instruction. `CommandWord`: the command word has RSV = 0 and OP <= 6, and its L bit is set
for HASH with L = 1 alone (spec/30_encoding.md R81, R83). -/

namespace Sys2Proof.Laws.CommandWord

/-- R81, R83: the fields of a command's word. -/
def Statement (i : Instr) : Prop :=
  fieldRsv (encode i) = 0#27 ∧ (fieldOp (encode i)).toNat ≤ 6 ∧ (fieldL (encode i) = true ↔ i = .hash true)

theorem nop : Statement .nop := ⟨by decide, by decide, by decide⟩
theorem init : Statement .init := ⟨by decide, by decide, by decide⟩
theorem chunk : Statement .chunk := ⟨by decide, by decide, by decide⟩
theorem lane4 : Statement .lane4 := ⟨by decide, by decide, by decide⟩
theorem tail : Statement .tail := ⟨by decide, by decide, by decide⟩
theorem final : Statement .final := ⟨by decide, by decide, by decide⟩
theorem hash (l : Bool) : Statement (.hash l) := by
  cases l <;> exact ⟨by decide, by decide, by decide⟩

end Sys2Proof.Laws.CommandWord
end

