-- ==== Sys2Proof/Laws/Sequencer.lean ====
section
/-! SUPPORT. The loops of HASH, packaged once: what every round keeps, a loop whose rounds all succeed, a loop
stopped by an error, and what HASH ends in. -/

namespace Sys2Proof.Machine

variable {size fuel : Nat} {body : State → Except Raised State} {s t : State}

/-- Where a sequence of sub-steps stands: going on in a state of `P`, or ended by an error in a state of `Q`. -/
def Stands (P Q : State → Prop) : Except State State → Prop
  | .ok t => P t
  | .error t => Q t

theorem perform_stands {P Q : State → Prop} (hok : ∀ t, body s = .ok t → P t)
    (herr : ∀ r, body s = .error r → Q (raiseError r s)) : Stands P Q (perform body s) := by
  cases hp : perform body s with
  | ok t => exact hok t (perform_ok.mp hp)
  | error t =>
    obtain ⟨r, hb, rfl⟩ := perform_error.mp hp
    exact herr r hb

/-- What every successful round keeps holds after the loop; an error ends it in a state of `Q`. -/
theorem whileRemaining_stands {P Q : State → Prop}
    (hok : ∀ s t, P s → body s = .ok t → P t)
    (herr : ∀ s r, P s → body s = .error r → Q (raiseError r s)) (hs : P s) :
    Stands P Q (whileRemaining size body fuel s) := by
  induction fuel generalizing s with
  | zero => exact hs
  | succ fuel ih =>
    simp only [whileRemaining]
    split
    · have hp := perform_stands (hok s · hs) (herr s · hs)
      split
      · rename_i t ht; rw [ht] at hp; exact ih hp
      · rename_i t ht; rw [ht] at hp; exact hp
    · exact hs

/-- A loop of exactly `n` successful rounds: `P c` describes the state after `c` of them. -/
theorem whileRemaining_ok {P : Nat → State → Prop} {n c : Nat}
    (hround : ∀ c s, c < n → P c s → size ≤ remaining s ∧ ∃ t, body s = .ok t ∧ P (c + 1) t)
    (hend : ∀ s, P n s → remaining s < size) (hc : c ≤ n) (hfuel : n - c ≤ fuel) (hs : P c s) :
    ∃ t, whileRemaining size body fuel s = .ok t ∧ P n t := by
  induction fuel generalizing c s with
  | zero =>
    obtain rfl : c = n := by omega
    exact ⟨s, rfl, hs⟩
  | succ fuel ih =>
    by_cases hcn : c = n
    · subst hcn
      exact ⟨s, by simp [whileRemaining, Nat.not_le.mpr (hend s hs)], hs⟩
    · obtain ⟨hr, t, hb, ht⟩ := hround c s (by omega) hs
      obtain ⟨u, hu, hPu⟩ := ih (c := c + 1) (by omega) (by omega) ht
      exact ⟨u, by simp [whileRemaining, hr, perform_ok.mpr hb, hu], hPu⟩

/-- A loop of `n` successful rounds whose next round raises `r`. -/
theorem whileRemaining_error {P : Nat → State → Prop} {n c : Nat} {r : Raised}
    (hround : ∀ c s, c < n → P c s → size ≤ remaining s ∧ ∃ t, body s = .ok t ∧ P (c + 1) t)
    (hfail : ∀ s, P n s → size ≤ remaining s ∧ body s = .error r) (hc : c ≤ n) (hfuel : n - c < fuel) (hs : P c s) :
    ∃ t, whileRemaining size body fuel s = .error (raiseError r t) ∧ P n t := by
  induction fuel generalizing c s with
  | zero => omega
  | succ fuel ih =>
    by_cases hcn : c = n
    · subst hcn
      obtain ⟨hr, hb⟩ := hfail s hs
      exact ⟨s, by simp [whileRemaining, hr, perform_error.mpr ⟨r, hb, rfl⟩], hs⟩
    · obtain ⟨hr, t, hb, ht⟩ := hround c s (by omega) hs
      obtain ⟨u, hu, hPu⟩ := ih (c := c + 1) (by omega) (by omega) ht
      exact ⟨u, by simp [whileRemaining, hr, perform_ok.mpr hb, hu], hPu⟩

/-- HASH after its INIT: what LANE4 (when L = 1), CHUNK and TAIL keep, from states of `P`, and what FINAL and every error
make of it. -/
theorem hashSteps_ends {P Q : State → Prop} {l : Bool} {w : Word}
    (hlane : l = true → ∀ s t, P s → lane4Body w s = .ok t → P t)
    (hchunk : ∀ s t, P s → chunkBody w s = .ok t → P t)
    (htail : ∀ s t, P s → tailBody w s = .ok t → P t)
    (hfinal : ∀ s t, P s → finalBody w s = .ok t → Q t)
    (herr : ∀ s r, P s → lane4Body w s = .error r ∨ chunkBody w s = .error r ∨ tailBody w s = .error r ∨
      finalBody w s = .error r → Q (raiseError r s)) (hs : P s) : Q (endState (hashSteps l w s)) := by
  have h1 : Stands P Q (laneSteps l w s) := by
    unfold laneSteps
    split
    · rename_i hl
      exact whileRemaining_stands (hlane hl) (fun s r h hb => herr s r h (.inl hb)) hs
    · exact hs
  simp only [hashSteps, bind, Except.bind]
  split
  · rename_i t ht; rw [ht] at h1; exact h1
  rename_i s1 ht; rw [ht] at h1
  have h2 : Stands P Q (consumeAll 4 (chunkBody w) s1) :=
    whileRemaining_stands hchunk (fun s r h hb => herr s r h (.inr (.inl hb))) h1
  split
  · rename_i t ht; rw [ht] at h2; exact h2
  rename_i s2 ht; rw [ht] at h2
  have h3 := perform_stands (htail s2 · h2) (fun r hb => herr s2 r h2 (.inr (.inr (.inl hb))))
  split
  · rename_i t ht; rw [ht] at h3; exact h3
  rename_i s3 ht; rw [ht] at h3
  have h4 := perform_stands (P := Q) (hfinal s3 · h3) (fun r hb => herr s3 r h3 (.inr (.inr (.inr hb))))
  cases hp : perform (finalBody w) s3 <;> rw [hp] at h4 <;> exact h4

end Sys2Proof.Machine
end

