-- ==== Sys2Proof/Tests/Slice0.lean ====
section
/-! SUPPORT. The model's own tests. Expected values come from spec/95_test_vectors.md (its row is named in each comment), from
spec/30_encoding.md R83 to R85 and from the rule named. Theorems `witness_…` show values that meet the hypotheses of the
statement they name, clause by clause. -/

namespace Sys2Proof.Tests

open Sys2Proof.Machine

/-! ## Helpers -/

/-- A view that holds `bytes` from address `a` on, and nothing else. -/
def viewOf (a : Word) : List Byte → Memory
  | [] => []
  | b :: rest => (viewOf (a + 1#32) rest).set a (some b)

/-- The reset state configured with SEED, LEN and BASE, the view holding `bytes` at BASE. -/
def configured (seed len base : Word) (bytes : List Byte) : State :=
  { State.reset with seed := seed, len := len, base := base, view := viewOf base bytes }

/-- The next state of an outcome. -/
def next? : Host.Outcome State Fault Refusal → Option State
  | .next t => some t
  | .fault _ => none
  | .refused _ => none

/-- The refusal of an outcome. -/
def refusal? : Host.Outcome State Fault Refusal → Option Refusal
  | .refused r => some r
  | .next _ => none
  | .fault _ => none

/-- What `f` gives of the state after commands. -/
def after {α : Type} (is : List Instr) (s : State) (f : State → α) : Option α := (next? (runCommands is s)).map f

/-- What `f` gives of the state after one move. -/
def afterMove {α : Type} (mv : HostMove) (s : State) (f : State → α) : Option α :=
  (next? (step { s with pending := [mv] })).map f

/-- STATUS, ERRINFO and ERRADDR. -/
def errorOf (s : State) : Word × Word × Word := (status s, s.errInfo, s.errAddr)

/-- "abc" at 0x1000, LEN 3, SEED 0 (P1). -/
def abc : State := configured 0#32 3#32 0x1000#32 [0x61#8, 0x62#8, 0x63#8]

/-- Bytes 01 .. 10 at 0x2000, LEN 16, SEED 0x9747B28C (2.6). -/
def block : State := configured 0x9747B28C#32 16#32 0x2000#32
  [1#8, 2#8, 3#8, 4#8, 5#8, 6#8, 7#8, 8#8, 9#8, 10#8, 11#8, 12#8, 13#8, 14#8, 15#8, 16#8]

/-- A state with the SEQUENCE error of E1 recorded. -/
def failed : State := { abc with err := true, errCode := .sequence, errInfo := 2#32 }

/-- "abc" after INIT. -/
def abcBody : State := { abc with phase := .body }

/-- The 16-byte block after INIT. -/
def blockBody : State := { block with phase := .body, h := 0x9747B28C#32 }

/-! ## Well-formedness -/

theorem test_wellFormed_lane4 : Instr.wellFormed false .lane4 = false := by decide
theorem test_wellFormed_hash_lanes : Instr.wellFormed false (.hash true) = false := by decide
theorem test_wellFormed_others : [Instr.nop, .init, .chunk, .tail, .final, .hash false].all (Instr.wellFormed false) := by
  decide

/-! ## Decoding: words written out as RSV, L, OP (R81, R83), and illegal ones (R85) -/

theorem test_decode_control : decode true 0b000000000000000000000000000_0_0001#32 = .ok .init := by decide
theorem test_decode_body : decode false 0b000000000000000000000000000_0_0010#32 = .ok .chunk := by decide
theorem test_decode_hash_lanes : decode true 0b000000000000000000000000000_1_0110#32 = .ok (.hash true) := by decide
theorem test_decode_table_row : decodeTableWord 32 0x16 = some (.hash true) := by decide
theorem test_decode_reserved_low : decode true 0x00000021#32 = .error .reservedBits := by decide
theorem test_decode_reserved_high : decode true 0x80000001#32 = .error .reservedBits := by decide
theorem test_decode_undefined_op : decode true 0x00000007#32 = .error .undefinedOp := by decide
theorem test_decode_nop_with_lanes : decode true 0x00000010#32 = .error .laneBitOutsideHash := by decide
theorem test_decode_no_lanes : decode false 0x00000003#32 = .error .lanesAbsent ∧
    decode false 0x00000016#32 = .error .lanesAbsent := by decide

/-! ## The pure functions -/

/-- Table 2.1. -/
theorem test_le32 : le32 0x21#8 0x43#8 0x65#8 0x87#8 = 0x87654321#32 := by decide
/-- Table 2.1. -/
theorem test_rotl : rotl 0x80000001#32 15 = 0x0000C000#32 ∧ rotl 0xFFFF0000#32 13 = 0xE0001FFF#32 := by decide
/-- Table 2.1. -/
theorem test_mixK : mixK 0x87654321#32 = 0x5082EDEE#32 ∧ mixK 0x80000000#32 = 0xCD64C000#32 := by decide
/-- Table 2.2. -/
theorem test_foldH : foldH 0x12345678#32 0x9ABCDEF0#32 = 0x3BA9C0B9#32 ∧ foldH 0xFFFFFFFF#32 0#32 = 0xE6546B5F#32 := by
  decide
/-- Table 2.3. -/
theorem test_tailK : tailK 1 0x21#8 0x43#8 0x65#8 = 0x21#32 ∧ tailK 2 0x21#8 0x43#8 0x65#8 = 0x4321#32 ∧
    tailK 3 0x21#8 0x43#8 0x65#8 = 0x654321#32 := by decide
/-- Table 2.4, with its stages for h = 1. -/
theorem test_fmix : fmix 0x00000001#32 = 0x514E28B7#32 ∧ fmix 0xDEADBEEF#32 = 0x0DE5C6A9#32 ∧
    xorShift 0x85EBCA6B#32 13 = 0x85EFE535#32 := by decide
/-- Table 2.6, N = 19, SEED 0. -/
theorem test_hash32 : hash32 (fun i => BitVec.ofNat 8 i) 19#32 0#32 = 0xE467FFCD#32 := by decide
/-- Table 2.6, N = 19, SEED 0, L = 1. -/
theorem test_vhash32 : vhash32 (fun i => BitVec.ofNat 8 i) 19#32 0#32 = 0xE467FFCD#32 := by decide

/-! ## The commands -/

/-- 2.8: NOP with ERR = 1. -/
theorem test_nop : after [.nop] failed id = some failed := by decide
/-- 2.8: INIT from reset, and with an error recorded. -/
theorem test_init : after [.init] block (fun t => (status t, t.h, t.off)) = some (1#32, 0x9747B28C#32, 0#32) := by decide
theorem test_init_clears_error : after [.init] failed errorOf = some (1#32, 0#32, 0#32) := by decide
/-- 2.10 Wrap; H as in P5. -/
theorem test_chunk_wraps :
    after [.init, .chunk] (configured 0#32 4#32 0xFFFFFFFE#32 [1#8, 2#8, 3#8, 4#8]) (fun t => (t.k, t.m, t.h, t.off)) =
      some (0x04030201#32, 0xF93BDA2F#32, 0x4EB26727#32, 4#32) := by decide
/-- E21. -/
theorem test_chunk_view_fault :
    after [.init, .chunk, .chunk] (configured 0#32 8#32 0x7000#32 [1#8, 2#8, 3#8, 4#8, 5#8, 6#8])
      (fun t => (errorOf t, t.off)) = some ((0x45#32, 2#32, 0x7006#32), 4#32) := by decide
/-- 2.6, the LANE4 row. -/
theorem test_lane4 : after [.lane4] blockBody (fun t => (t.h, t.k, t.m, t.off, t.lane0, t.lane1, t.lane2, t.lane3)) =
    some (0xF5E4BEEC#32, 0x100F0E0D#32, 0xE586E560#32, 16#32, 0xF93BDA2F#32, 0x69BC5DEA#32, 0xDA3CE1A5#32,
      0xE586E560#32) := by decide
/-- E3. -/
theorem test_lane4_bounds : after [.lane4] { blockBody with len := 15#32 } errorOf = some (0x35#32, 3#32, 0#32) := by decide
/-- P1. -/
theorem test_tail : after [.tail] abcBody (fun t => (status t, t.k, t.m, t.h, t.off)) =
    some (2#32, 0x00636261#32, 0xA7349DB7#32, 0xA7349DB7#32, 3#32) := by decide
/-- E4. -/
theorem test_tail_unfinished : after [.tail] { abcBody with len := 4#32 } errorOf = some (0x25#32, 4#32, 0#32) := by decide
/-- P1. -/
theorem test_final : after [.final] { abc with phase := .tailed, off := 3#32, h := 0xA7349DB7#32 }
    (fun t => (status t, t.h, t.result)) = some (3#32, 0xB3DD93FA#32, 0xB3DD93FA#32) := by decide
/-- E6. -/
theorem test_final_early : after [.final] abcBody errorOf = some (0x25#32, 5#32, 0#32) := by decide
/-- P2's 21 bytes with HASH.L: K, RESULT and two lanes. -/
theorem test_hash_lanes :
    after [.hash true] { block with
        len := 21#32, view := block.view ++ viewOf 0x2010#32 [17#8, 18#8, 19#8, 20#8, 21#8] }
      (fun t => (status t, t.k, t.result, t.lane0, t.lane3)) =
      some (3#32, 0x15#32, 0xEFD14079#32, 0xF93BDA2F#32, 0xE586E560#32) := by decide
/-- P5, step 11. -/
theorem test_hash_view_fault :
    after [.hash false] (configured 0#32 8#32 0x5000#32 [1#8, 2#8, 3#8, 4#8, 5#8, 6#8])
      (fun t => (errorOf t, t.off, t.h, t.result)) = some ((0x45#32, 6#32, 0x5006#32), 4#32, 0x4EB26727#32, 0#32) := by
  decide

/-! ## Host moves -/

/-- E13: NOP with L = 1 is no command. -/
theorem test_move_illegal_word : afterMove (cmdWrite abc 0x10#32) abc errorOf = some (0x14#32, 0x10#32, 0#32) := by decide
/-- E14: LANE4 without the lane mixer, in BODY. -/
theorem test_move_no_lanes :
    afterMove (cmdWrite abc 3#32) { abcBody with cfg := ⟨false, 0⟩ } errorOf = some (0x15#32, 3#32, 0#32) := by decide
/-- E16: the first error is kept. -/
theorem test_move_first_error_kept : afterMove (cmdWrite abc 7#32) failed errorOf = some (0x24#32, 2#32, 0#32) := by decide
/-- E18. -/
theorem test_move_config_locked :
    afterMove (windowWrite abc 0x0C 4#32) { abcBody with len := 8#32 } (fun t => (errorOf t, t.len)) =
      some ((0x55#32, 0x0C#32, 0#32), 8#32) := by decide
/-- OK5. -/
theorem test_move_config_in_error :
    afterMove (windowWrite abc 0x0C 3#32) { failed with len := 9#32 } (fun t => (status t, t.len)) =
      some (0x24#32, 3#32) := by decide
/-- R21, R38: ERRADDR is at 0x2C. -/
theorem test_move_read : afterMove (windowRead abc 0x2C) { abc with errAddr := 0x7006#32 } (·.readData) =
    some (some 0x7006#32) := by decide
/-- R39. -/
theorem test_move_narrow_write : refusal? (step { abc with pending := [.write 0x08 2 1#32] }) = some .accessSize := by decide
/-- R37, R39. -/
theorem test_move_outside : refusal? (step { abc with pending := [.read 0x40 4] }) = some .outsideWindow := by decide
/-- R22, R84: the word of a table row, run as the first command after reset. -/
theorem test_withFetchWord : (next? (step (State.reset.withFetchWord 32 0x06))).map status = some 3#32 := by decide
/-- R60: a change of the view keeps the order and the other bytes. -/
theorem test_view_change : ((viewOf 4#32 [1#8, 2#8]).set 5#32 none).set 3#32 (some 9#8) = [(3, 9#8), (4, 1#8)] := by decide

/-! ## Witnesses -/

/-- A state with one move to make. -/
def withMove (s : State) (mv : HostMove) : State := { s with pending := [mv] }

theorem witness_reset_asserted : ∃ s₀ s rest, s₀.pending = .assertReset :: rest ∧ step s₀ = .next s :=
  ⟨withMove blockBody .assertReset, _, _, rfl, rfl⟩
theorem witness_reset_held : ∃ s t : State, s.inReset = true ∧ RegistersReset s ∧ step s = .next t :=
  ⟨{ State.reset with inReset := true, pending := [.setView 7#32 (some 1#8)] }, _, rfl, by unfold RegistersReset; decide, rfl⟩
theorem witness_init : ∃ s t : State, s.seed ≠ 0#32 ∧ exec .init s = .next t := ⟨block, _, by decide, rfl⟩

theorem abcBody_invariant : Invariant (withMove abcBody (cmdWrite abcBody 4#32)) where
  viewCanonical := by decide
  bodyOffset := by decide
  tailedOffset := by decide
  mixed := by decide
  noRecord := by decide
  recorded := by decide
  addrOfViewFault := by decide
  doneResult := by decide
  noResult := by decide
  idleRegisters := by decide
  lanesAbsent := by decide
  heldInReset := by intro h; cases h

theorem witness_invariant_step : ∃ s t, Invariant s ∧ step s = .next t := ⟨_, _, abcBody_invariant, rfl⟩

theorem witness_access_in_reset : ∃ (s s' : State) (rest : List HostMove) (addr size : Nat) (v : Word),
    s.inReset = true ∧ s'.inReset = true ∧
    s.pending = .read addr size :: rest ∧ s'.pending = .write addr size v :: rest :=
  ⟨withMove { abc with inReset := true } (.read 0 4), withMove { abc with inReset := true } (.write 0 4 1#32),
    _, _, _, _, rfl, rfl, rfl, rfl⟩
theorem witness_release : ∃ (s : State) (rest : List HostMove), s.inReset = true ∧ s.pending = .releaseReset :: rest :=
  ⟨withMove { abc with inReset := true } .releaseReset, _, rfl, rfl⟩

theorem witness_illegal_words :
    (∀ w ∈ [0x20#32, 0x80000006#32, 0x07#32, 0x0F#32, 0x17#32, 0x10#32, 0x15#32], IllegalWord true w) ∧
    (∀ w ∈ [0x03#32, 0x16#32], IllegalWord false w ∧ ¬ IllegalWord true w) := by
  simp only [List.forall_mem_cons]
  exact ⟨⟨.inl (by decide), .inl (by decide), .inr (.inl (by decide)), .inr (.inl (by decide)), .inr (.inl (by decide)),
    .inr (.inr (.inl (by decide))), .inr (.inr (.inl (by decide))), by simp⟩,
    ⟨.inr (.inr (.inr (by decide))), by unfold IllegalWord; decide⟩,
    ⟨.inr (.inr (.inr (by decide))), by unfold IllegalWord; decide⟩, by simp⟩
theorem witness_illegal_write : ∃ (s s' : State) (w : Word) (rest : List HostMove),
    s.inReset = false ∧ s'.inReset = false ∧ s.err = false ∧ s'.err = true ∧
    s.pending = cmdWrite s w :: rest ∧ s'.pending = cmdWrite s' w :: rest ∧
    IllegalWord s.cfg.hasLanes w ∧ IllegalWord s'.cfg.hasLanes w :=
  ⟨withMove abcBody (cmdWrite abc 7#32), withMove failed (cmdWrite abc 7#32), _, _, rfl, rfl, rfl, rfl, rfl, rfl,
    by unfold IllegalWord; decide, by unfold IllegalWord; decide⟩
theorem witness_command_write : ∃ (s : State) (w : Word) (rest : List HostMove) (i : Instr),
    s.inReset = false ∧ s.pending = cmdWrite s w :: rest ∧
    decode s.cfg.hasLanes w = .ok i :=
  ⟨withMove abcBody (cmdWrite abcBody 4#32), _, _, .tail, rfl, rfl, by decide⟩
theorem witness_idle_queue : State.reset.pending = [] := rfl
theorem witness_one_move : ∃ s t : State, s.pending ≠ [] ∧ step s = .next t :=
  ⟨withMove abcBody (windowRead abc 0x24), _, by decide, rfl⟩

/-! CHUNK, LANE4, TAIL and FINAL, each case at the edge of its range. -/

theorem witness_chunk_sequence : abc.err = false ∧ abc.phase ≠ .body := by decide
theorem witness_chunk_bounds : abcBody.err = false ∧ abcBody.phase = .body ∧ abcBody.len.toNat + 1 = abcBody.off.toNat + 4 := by
  decide

/-- "abc" at 0x1000 with LEN 4, in BODY: one byte short. -/
def shortBody : State := { abcBody with len := 4#32 }

theorem shortBody_fault : FirstUnreadable shortBody 4 0x1003#32 := by
  refine ⟨3, by decide, fun i hi => ?_, by decide, by decide⟩
  interval_cases i
  · exact ⟨0x61#8, by decide⟩
  · exact ⟨0x62#8, by decide⟩
  · exact ⟨0x63#8, by decide⟩

theorem witness_chunk_view_fault : shortBody.err = false ∧ shortBody.phase = .body ∧
    shortBody.off.toNat + 4 = shortBody.len.toNat ∧ FirstUnreadable shortBody 4 0x1003#32 :=
  ⟨rfl, rfl, by decide, shortBody_fault⟩

/-- The bytes 01, 02, … of `block`. -/
def counting (i : Nat) : Byte := BitVec.ofNat 8 (i + 1)

theorem witness_chunk_folds : blockBody.err = false ∧ blockBody.phase = .body ∧
    blockBody.off.toNat + 4 ≤ blockBody.len.toNat ∧
    ∀ j, j < 4 → blockBody.view.read (blockBody.base + blockBody.off + BitVec.ofNat 32 j) = some (counting j) := by decide
theorem witness_lane4_bounds : ∃ s : State, s.err = false ∧ s.phase = .body ∧ s.len.toNat + 1 = s.off.toNat + 16 :=
  ⟨{ blockBody with len := 15#32 }, by decide⟩
theorem witness_lane4_view_fault : ∃ (s : State) (a : Word), s.err = false ∧ s.phase = .body ∧
    s.off.toNat + 16 = s.len.toNat ∧ FirstUnreadable s 16 a :=
  ⟨{ shortBody with len := 16#32 }, 0x1003#32, rfl, rfl, by decide, by
    obtain ⟨j, hj, hb, hn, ha⟩ := shortBody_fault
    exact ⟨j, by omega, hb, hn, ha⟩⟩
theorem witness_lane4_folds : blockBody.off.toNat + 16 = blockBody.len.toNat ∧
    ∀ j, j < 16 → blockBody.view.read (blockBody.base + blockBody.off + BitVec.ofNat 32 j) = some (counting j) := by decide
theorem witness_tail_unfinished : shortBody.err = false ∧ shortBody.phase = .body ∧
    shortBody.off.toNat + 4 ≤ shortBody.len.toNat := by decide
theorem witness_tail_nothing_left : ∃ s t : State, s.err = false ∧ s.errCode = .none ∧ s.phase = .body ∧ s.len = s.off ∧
    exec .tail s = .next t ∧ t.err = false :=
  ⟨{ blockBody with off := 16#32 }, _, rfl, rfl, rfl, rfl, rfl, rfl⟩
theorem witness_tail_folds : ∀ rem, 1 ≤ rem → rem ≤ 3 → ∃ s : State, s.err = false ∧ s.phase = .body ∧
    s.len.toNat = s.off.toNat + rem ∧
    ∀ j, j < rem → s.view.read (s.base + s.off + BitVec.ofNat 32 j) = some (counting j) := by
  intro rem h1 h3
  interval_cases rem
  · exact ⟨{ blockBody with len := 1#32 }, by decide⟩
  · exact ⟨{ blockBody with len := 2#32 }, by decide⟩
  · exact ⟨{ blockBody with len := 3#32 }, by decide⟩
theorem witness_tail_view_fault : ∃ s : State, s.err = false ∧ s.phase = .body ∧ s.len.toNat = s.off.toNat + 1 ∧
    FirstUnreadable s 1 0x1003#32 :=
  ⟨{ shortBody with off := 3#32 }, rfl, rfl, by decide, 0, by decide, fun i hi => absurd hi (by omega), by decide, by decide⟩
theorem witness_final_sequence : abcBody.err = false ∧ abcBody.phase ≠ .tailed := by decide
theorem witness_final : ∃ s t : State, s.err = false ∧ s.errCode = .none ∧ s.phase = .tailed ∧ exec .final s = .next t ∧
    t.err = false := ⟨{ abc with phase := .tailed }, _, rfl, rfl, rfl, rfl, rfl⟩
theorem witness_command_without_error : ∀ i ∈ [Instr.nop, .chunk, .lane4, .hash true], ∃ t, exec i blockBody = .next t ∧
    t.err = blockBody.err := by
  simp only [List.forall_mem_cons]
  exact ⟨⟨_, rfl, by decide⟩, ⟨_, rfl, by decide⟩, ⟨_, rfl, by decide⟩, ⟨_, rfl, by decide⟩, by simp⟩
theorem witness_phase_transitions : ∀ i : Instr, ∃ s t : State, s.err = false ∧ s.errCode = .none ∧ s.phase = .body ∧
    exec i s = .next t := by
  intro i
  cases i <;> exact ⟨abcBody, _, rfl, rfl, rfl, rfl⟩
theorem witness_phase_sequence : ∀ i : Instr, ∃ s t : State, s.err = false ∧ s.errCode = .none ∧ s.phase = .done ∧
    exec i s = .next t := by
  intro i
  cases i <;> exact ⟨{ abc with phase := .done }, _, rfl, rfl, rfl, rfl⟩

/-! Errors and the window. -/

theorem witness_failing_command : ∃ t, abc.err = false ∧ exec .chunk abc = .next t ∧ t.err = true := ⟨_, rfl, rfl, rfl⟩
theorem witness_recorded_error : ∃ s : State, s.err = true ∧ s.inReset = false ∧ s.phase = .body ∧
    s.pending = [windowWrite s 0x08 1#32] := ⟨withMove { failed with phase := .body } (windowWrite abc 0x08 1#32), by decide⟩
theorem witness_error_kept : ∃ s t : State, s.err = true ∧ step s = .next t ∧ t.err = true :=
  ⟨withMove failed (cmdWrite abc 2#32), _, rfl, rfl, rfl⟩
theorem witness_error_cleared : ∀ mv ∈ [cmdWrite abc 1#32, cmdWrite abc 0x16#32, .assertReset],
    ∃ t, failed.err = true ∧ step (withMove failed mv) = .next t ∧ t.err = false := by
  simp only [List.forall_mem_cons]
  exact ⟨⟨_, rfl, rfl, by decide⟩, ⟨_, rfl, rfl, by decide⟩, ⟨_, rfl, rfl, by decide⟩, by simp⟩
theorem witness_config_locked : ∀ p ∈ [Phase.body, .tailed], ∃ (s : State) (v : Word), s.inReset = false ∧ s.err = false ∧
    s.phase = p ∧ s.pending = [windowWrite s 0x10 v] := by
  intro p _
  exact ⟨withMove { abc with phase := p } (windowWrite abc 0x10 5#32), 5#32, rfl, rfl, rfl, rfl⟩
theorem witness_config_stored : ∀ p ∈ [Phase.idle, .done], ∃ (s : State) (v : Word), s.inReset = false ∧ s.phase = p ∧
    s.pending = [windowWrite s 0x08 v] := by
  intro p _
  exact ⟨withMove { abc with phase := p } (windowWrite abc 0x08 5#32), 5#32, rfl, rfl, rfl⟩
theorem witness_read_only_write : ∃ s : State, s.inReset = false ∧ s.pending = [windowWrite s 0x3C 1#32] :=
  ⟨withMove blockBody (windowWrite block 0x3C 1#32), rfl, rfl⟩
theorem witness_read : ∃ s : State, s.inReset = false ∧ s.pending = [windowRead s 0x3C] :=
  ⟨withMove blockBody (windowRead block 0x3C), rfl, rfl⟩
theorem witness_admitted : ∃ (s : State) (n : Nat), s.inReset = false ∧ n = 15 ∧
    s.pending = [.read (s.cfg.mhmBase + 4 * n) 4] := ⟨withMove abc (.read 0x3C 4), 15, rfl, rfl, rfl⟩
theorem witness_not_admitted : ∀ x ∈ [(0x40, 4), (0x3E, 4), (0x3C, 2)], ∃ s : State, s.inReset = false ∧
    s.pending = [.write x.1 x.2 0#32] ∧ ¬ (x.2 = 4 ∧ ∃ n, n < 16 ∧ x.1 = s.cfg.mhmBase + 4 * n) := by
  intro x hx
  refine ⟨withMove abc (.write x.1 x.2 0#32), rfl, rfl, ?_⟩
  rintro ⟨h4, n, hn, ha⟩
  have hb : (withMove abc (.write x.1 x.2 0#32)).cfg.mhmBase = 0 := rfl
  rw [hb] at ha
  simp only [List.mem_cons, List.not_mem_nil, or_false] at hx
  obtain rfl | rfl | rfl := hx <;> simp at h4 ha <;> omega

/-! The view and the whole hash. -/

theorem witness_view_kept : ∃ s t : State, step s = .next t ∧ ∀ a b rest, s.pending ≠ .setView a b :: rest :=
  ⟨withMove blockBody (cmdWrite block 2#32), _, rfl, fun a b rest h => by cases h⟩
theorem witness_view_race : ∃ (s : State) (a : Word), s.pending = [.setView a none] ∧ s.err = false ∧ s.phase = .body ∧
    ∃ i, i < s.len.toNat ∧ a = s.base + BitVec.ofNat 32 i :=
  ⟨withMove abcBody (.setView 0x1002#32 none), 0x1002#32, rfl, rfl, rfl, 2, by decide, by decide⟩
theorem witness_view_change : ∃ s : State, s.pending = [.setView 0x1002#32 none] ∧ s.phase = .done :=
  ⟨withMove { abc with phase := .done } (.setView 0x1002#32 none), rfl, rfl⟩
theorem witness_reads_only_input : blockBody.view ≠ block.view.set 0x2004#32 none ∧ ∀ n, ReadsOffset blockBody n .chunk →
    (block.view.set 0x2004#32 none).read (blockBody.base + BitVec.ofNat 32 n) =
      blockBody.view.read (blockBody.base + BitVec.ofNat 32 n) := by
  refine ⟨by decide, fun n hn => ?_⟩
  obtain ⟨-, h4, -⟩ := hn
  have h0 : blockBody.off.toNat = 0 := by decide
  rw [h0] at h4
  interval_cases n <;> decide
theorem witness_fold_by_xor : (1#32 ^^^ 2#32 : Word) = 3#32 ^^^ 0#32 := by decide
theorem witness_lane4_succeeds : ∃ t, blockBody.err = false ∧ exec .lane4 blockBody = .next t ∧ t.err = false :=
  ⟨_, rfl, rfl, by decide⟩

/-- The bytes of "abc". -/
def abcData (i : Nat) : Byte := BitVec.ofNat 8 (0x61 + i)

theorem witness_input : InputIs abc abcData ∧ abc.len.toNat < 16 := by unfold InputIs; decide
theorem witness_input_empty : InputIs State.reset abcData ∧ State.reset.len = 0#32 := by unfold InputIs; decide
theorem witness_input_block : InputIs block counting ∧ block.len.toNat = 16 := by unfold InputIs; decide
theorem witness_stepped_hash : ∃ t, InputIs block counting ∧ SteppedHash block t :=
  ⟨_, witness_input_block.1, [.lane4], _, by simp, rfl, by decide, by decide, rfl⟩
theorem witness_hash_run : ∃ t, ConformingRun block t ∧ exec (.hash true) block = .next t := ⟨_, .inr ⟨true, rfl⟩, rfl⟩
theorem witness_two_runs : ∃ s s' t t' : State, s.seed = s'.seed ∧ s.len = s'.len ∧ s.base ≠ s'.base ∧
    InputIs s abcData ∧ InputIs s' abcData ∧ ConformingRun s t ∧ ConformingRun s' t' :=
  ⟨abc, configured 0#32 3#32 0xFFFFFFFE#32 [0x61#8, 0x62#8, 0x63#8], _, _, rfl, rfl, by decide,
    by unfold InputIs; decide, by unfold InputIs; decide, .inr ⟨true, rfl⟩, .inr ⟨false, rfl⟩⟩
theorem witness_zero_case : State.reset.len = 0#32 ∧ State.reset.seed = 0#32 := ⟨rfl, rfl⟩
theorem witness_hash_stops : ∃ (s : State) (n : Nat), n < s.len.toNat ∧
    (∀ i, i < n → s.view.read (s.base + BitVec.ofNat 32 i) = some (counting i)) ∧
    s.view.read (s.base + BitVec.ofNat 32 n) = none := ⟨{ block with len := 17#32 }, 16, by decide⟩
theorem witness_hash_stops_in_block : ∃ (s : State) (n : Nat), n < s.len.toNat ∧ 16 * (n / 16) + 16 = s.len.toNat ∧
    (∀ i, i < n → s.view.read (s.base + BitVec.ofNat 32 i) = some (counting i)) ∧
    s.view.read (s.base + BitVec.ofNat 32 n) = none := ⟨{ block with view := block.view.set 0x200F#32 none }, 15, by decide⟩
theorem witness_no_lanes : ∃ s t : State, s.cfg.hasLanes = false ∧ step s = .next t :=
  ⟨withMove { abc with cfg := ⟨false, 0⟩ } (cmdWrite abc 3#32), _, rfl, rfl⟩
theorem witness_calling_sequence : ∃ (s : State) (config rest : List HostMove), s.inReset = false ∧
    hashInProgress s = false ∧ s.cfg.hasLanes = true ∧
    (∀ i, i < (3#32 : Word).toNat → s.view.read (0x1000#32 + BitVec.ofNat 32 i) = some (abcData i)) ∧
    config.Perm [windowWrite s 0x10 0x1000#32, windowWrite s 0x0C 3#32, windowWrite s 0x08 7#32] ∧
    s.pending = config ++ cmdWrite s (encode (.hash true)) :: windowRead s 0x04 :: windowRead s 0x24 :: rest :=
  ⟨{ State.reset with
      view := abc.view
      pending := [windowWrite abc 0x0C 3#32, windowWrite abc 0x10 0x1000#32, windowWrite abc 0x08 7#32,
        cmdWrite abc 0x16#32, windowRead abc 0x04, windowRead abc 0x24] },
    [windowWrite abc 0x0C 3#32, windowWrite abc 0x10 0x1000#32, windowWrite abc 0x08 7#32], [],
    rfl, rfl, rfl, by decide, .swap _ _ _, rfl⟩

end Sys2Proof.Tests
end

section
/-! SUPPORT. What the body of each command does when it succeeds and which errors it raises, and from these the one
induction over what a command runs through: a predicate that INIT, every body and every error keep is kept by every
command. -/

namespace Sys2Proof.Machine

/-! ## The bodies, from what they answer -/

/-- The records a command with word `w` can make: R182 to R184's codes, its own word, and an address for VIEW_FAULT alone. -/
structure CommandError (w : Word) (r : Raised) : Prop where
  code : r.code = .sequence ∨ r.code = .bounds ∨ r.code = .viewFault
  info : r.info = w
  addr : r.code ≠ .viewFault → r.addr = 0#32

theorem commandError_sequence (w : Word) : CommandError w ⟨.sequence, w, 0#32⟩ := ⟨.inl rfl, rfl, fun _ => rfl⟩
theorem commandError_bounds (w : Word) : CommandError w ⟨.bounds, w, 0#32⟩ := ⟨.inr (.inl rfl), rfl, fun _ => rfl⟩
theorem commandError_viewFault (w a : Word) : CommandError w ⟨.viewFault, w, a⟩ :=
  ⟨.inr (.inr rfl), rfl, fun h => absurd rfl h⟩

theorem CommandError.code_ne_none {w : Word} {r : Raised} (h : CommandError w r) : r.code ≠ .none := by
  rcases h.code with hc | hc | hc <;> simp [hc]

variable {w : Word} {s t u : State} {r : Raised} {body : State → Except Raised State}

theorem chunkBody_ok (h : chunkBody w s = .ok t) :
    s.phase = .body ∧ 4 ≤ remaining s ∧ ∃ bytes, BytesAt s 0 4 bytes ∧ t = foldGroup (groupAt bytes 0) s := by
  rcases chunkBody_cases w s with ⟨-, hb⟩ | ⟨-, -, hb⟩ | ⟨-, -, a, -, hb⟩ | ⟨hp, hr, bytes, hbytes, hb⟩ <;>
    rw [hb] at h <;> cases h
  exact ⟨hp, hr, bytes, hbytes, rfl⟩

theorem lane4Body_ok (h : lane4Body w s = .ok t) :
    s.phase = .body ∧ 16 ≤ remaining s ∧ ∃ bytes, BytesAt s 0 16 bytes ∧ t = foldBlock (blockAt bytes 0) s := by
  rcases lane4Body_cases w s with ⟨-, hb⟩ | ⟨-, -, hb⟩ | ⟨-, -, a, -, hb⟩ | ⟨hp, hr, bytes, hbytes, hb⟩ <;>
    rw [hb] at h <;> cases h
  exact ⟨hp, hr, bytes, hbytes, rfl⟩

theorem tailBody_ok (h : tailBody w s = .ok t) :
    s.phase = .body ∧ ((remaining s = 0 ∧ t = closeBody s) ∨
      (1 ≤ remaining s ∧ remaining s ≤ 3 ∧ ∃ bytes, BytesAt s 0 (remaining s) bytes ∧
        t = foldTail (tailK (remaining s) (bytes 0) (bytes 1) (bytes 2)) s)) := by
  rcases tailBody_cases w s with ⟨-, hb⟩ | ⟨-, -, hb⟩ | ⟨hp, hr, hb⟩ | ⟨-, -, -, a, -, hb⟩ |
    ⟨hp, h1, h3, bytes, hbytes, hb⟩ <;> rw [hb] at h <;> cases h
  · exact ⟨hp, .inl ⟨hr, rfl⟩⟩
  · exact ⟨hp, .inr ⟨h1, h3, bytes, hbytes, rfl⟩⟩

theorem finalBody_ok (h : finalBody w s = .ok t) : s.phase = .tailed ∧ t = finishHash s := by
  rcases finalBody_cases w s with ⟨-, hb⟩ | ⟨hp, hb⟩ <;> rw [hb] at h <;> cases h
  exact ⟨hp, rfl⟩

/-- The errors of CHUNK (`n` = 4) and LANE4 (`n` = 16): each with the reason for it (R182 to R184, R189). -/
inductive FoldError (n : Nat) (w : Word) (s : State) : Raised → Prop
  | sequence (hp : s.phase ≠ .body) : FoldError n w s ⟨.sequence, w, 0#32⟩
  | bounds (hp : s.phase = .body) (hr : remaining s < n) : FoldError n w s ⟨.bounds, w, 0#32⟩
  | viewFault {a : Word} (hp : s.phase = .body) (hr : n ≤ remaining s) (ha : FirstUnreadable s n a) :
      FoldError n w s ⟨.viewFault, w, a⟩

theorem chunkBody_error (h : chunkBody w s = .error r) : FoldError 4 w s r := by
  rcases chunkBody_cases w s with ⟨hp, hb⟩ | ⟨hp, hr, hb⟩ | ⟨hp, hr, a, ha, hb⟩ | ⟨-, -, bytes, -, hb⟩ <;>
    rw [hb] at h <;> cases h
  · exact .sequence hp
  · exact .bounds hp hr
  · exact .viewFault hp hr ha

theorem lane4Body_error (h : lane4Body w s = .error r) : FoldError 16 w s r := by
  rcases lane4Body_cases w s with ⟨hp, hb⟩ | ⟨hp, hr, hb⟩ | ⟨hp, hr, a, ha, hb⟩ | ⟨-, -, bytes, -, hb⟩ <;>
    rw [hb] at h <;> cases h
  · exact .sequence hp
  · exact .bounds hp hr
  · exact .viewFault hp hr ha

theorem tailBody_error (h : tailBody w s = .error r) :
    ((s.phase ≠ .body ∨ 4 ≤ remaining s) ∧ r = ⟨.sequence, w, 0#32⟩) ∨
    (s.phase = .body ∧ 1 ≤ remaining s ∧ remaining s ≤ 3 ∧
      ∃ a, FirstUnreadable s (remaining s) a ∧ r = ⟨.viewFault, w, a⟩) := by
  rcases tailBody_cases w s with ⟨hp, hb⟩ | ⟨-, hr, hb⟩ | ⟨-, -, hb⟩ | ⟨hp, h1, h3, a, ha, hb⟩ |
    ⟨-, -, -, bytes, -, hb⟩ <;> rw [hb] at h <;> cases h
  · exact .inl ⟨.inl hp, rfl⟩
  · exact .inl ⟨.inr hr, rfl⟩
  · exact .inr ⟨hp, h1, h3, a, ha, rfl⟩

theorem finalBody_error (h : finalBody w s = .error r) : s.phase ≠ .tailed ∧ r = ⟨.sequence, w, 0#32⟩ := by
  rcases finalBody_cases w s with ⟨hp, hb⟩ | ⟨-, hb⟩ <;> rw [hb] at h <;> cases h
  exact ⟨hp, rfl⟩

theorem FoldError.commandError {n : Nat} (h : FoldError n w s r) : CommandError w r := by
  cases h with
  | sequence => exact commandError_sequence w
  | bounds => exact commandError_bounds w
  | viewFault => exact commandError_viewFault w _

theorem tailBody_commandError (h : tailBody w s = .error r) : CommandError w r := by
  rcases tailBody_error h with ⟨-, rfl⟩ | ⟨-, -, -, a, -, rfl⟩
  · exact commandError_sequence w
  · exact commandError_viewFault w a

theorem finalBody_commandError (h : finalBody w s = .error r) : CommandError w r := by
  obtain ⟨-, rfl⟩ := finalBody_error h
  exact commandError_sequence w

/-! ## What every command keeps -/

/-- With no error recorded a command does what its body does, or records its body's error. -/
theorem runUnlessErr_cases_of_no_err (h : runUnlessErr body s = .next t) (he : s.err = false) :
    body s = .ok t ∨ ∃ r, body s = .error r ∧ t = raiseError r s := by
  rcases runUnlessErr_cases body s with ⟨herr, -⟩ | ⟨-, u, hb, hr⟩ | ⟨-, r, hb, hr⟩
  · exact absurd (he.symm.trans herr) nofun
  · rw [hr] at h; cases h; exact .inl hb
  · rw [hr] at h; cases h; exact .inr ⟨r, hb, rfl⟩

theorem runUnlessErr_keeps {P : State → Prop} (h : runUnlessErr body s = .next t) (hs : P s)
    (hok : ∀ u, body s = .ok u → P u) (herr : ∀ r, body s = .error r → P (raiseError r s)) : P t := by
  rcases runUnlessErr_cases body s with ⟨-, hr⟩ | ⟨-, u, hb, hr⟩ | ⟨-, r, hb, hr⟩ <;> rw [hr] at h <;> cases h
  · exact hs
  · exact hok _ hb
  · exact herr r hb

/-- `P` is kept by the effect of every command body and by recording an error; by LANE4's only if `lanes` holds. -/
structure KeptByBodies (lanes : Prop) (P : State → Prop) : Prop where
  group : ∀ k s, P s → s.phase = .body → 4 ≤ remaining s → P (foldGroup k s)
  block : lanes → ∀ b s, P s → s.phase = .body → 16 ≤ remaining s → P (foldBlock b s)
  close : ∀ s, P s → s.phase = .body → remaining s = 0 → P (closeBody s)
  tail : ∀ k s, P s → s.phase = .body → P (foldTail k s)
  finish : ∀ s, P s → s.phase = .tailed → P (finishHash s)
  error : ∀ w r s, P s → CommandError w r → P (raiseError r s)

section KeptByBodies

variable {lanes : Prop} {P : State → Prop} (hP : KeptByBodies lanes P) (hs : P s)
include hP hs

theorem KeptByBodies.chunkBody (h : chunkBody w s = .ok t) : P t := by
  obtain ⟨hp, hr, bytes, -, rfl⟩ := chunkBody_ok h
  exact hP.group _ s hs hp hr

theorem KeptByBodies.lane4Body (hl : lanes) (h : lane4Body w s = .ok t) : P t := by
  obtain ⟨hp, hr, bytes, -, rfl⟩ := lane4Body_ok h
  exact hP.block hl _ s hs hp hr

theorem KeptByBodies.tailBody (h : tailBody w s = .ok t) : P t := by
  obtain ⟨hp, ⟨hr, rfl⟩ | ⟨-, -, bytes, -, rfl⟩⟩ := tailBody_ok h
  · exact hP.close s hs hp hr
  · exact hP.tail _ s hs hp

theorem KeptByBodies.finalBody (h : finalBody w s = .ok t) : P t := by
  obtain ⟨hp, rfl⟩ := finalBody_ok h
  exact hP.finish s hs hp

end KeptByBodies

/-- HASH keeps, from its INIT on, whatever the bodies keep. -/
theorem KeptByBodies.hashSteps {lanes : Prop} {P : State → Prop} {l : Bool} (hP : KeptByBodies lanes P)
    (hl : l = true → lanes) (hs : P s) : P (endState (hashSteps l w s)) := by
  refine hashSteps_ends (fun h s t hs => hP.lane4Body hs (hl h)) (fun s t hs => hP.chunkBody hs)
    (fun s t hs => hP.tailBody hs) (fun s t hs => hP.finalBody hs) (fun s r hs hb => hP.error w r s hs ?_) hs
  rcases hb with hb | hb | hb | hb
  · exact (lane4Body_error hb).commandError
  · exact (chunkBody_error hb).commandError
  · exact tailBody_commandError hb
  · exact finalBody_commandError hb

/-- A predicate that INIT and the bodies keep is kept by every command; LANE4's body matters for LANE4 and HASH with
L = 1 alone. -/
theorem exec_keeps {P : State → Prop} {i : Instr} (hP : KeptByBodies (i = .lane4 ∨ i = .hash true) P)
    (hstart : P s → P (startHash s)) (hs : P s) (h : exec i s = .next t) : P t := by
  cases i with
  | nop => cases h; exact hs
  | init => cases h; exact hstart hs
  | chunk =>
    exact runUnlessErr_keeps h hs (fun _ => hP.chunkBody hs)
      (fun r hb => hP.error _ r s hs (chunkBody_error hb).commandError)
  | lane4 =>
    exact runUnlessErr_keeps h hs (fun _ => hP.lane4Body hs (.inl rfl))
      (fun r hb => hP.error _ r s hs (lane4Body_error hb).commandError)
  | tail =>
    exact runUnlessErr_keeps h hs (fun _ => hP.tailBody hs) (fun r hb => hP.error _ r s hs (tailBody_commandError hb))
  | final =>
    exact runUnlessErr_keeps h hs (fun _ => hP.finalBody hs) (fun r hb => hP.error _ r s hs (finalBody_commandError hb))
  | hash l =>
    cases h
    exact hP.hashSteps (fun hl => .inr (by rw [hl])) (hstart hs)

/-! ## The frame of every command -/

/-- What no command writes (R82): configuration, parameters, view, reset input and the model's own fields. -/
structure CommandFrame (s t : State) : Prop where
  cfg : t.cfg = s.cfg
  view : t.view = s.view
  seed : t.seed = s.seed
  len : t.len = s.len
  base : t.base = s.base
  inReset : t.inReset = s.inReset
  pending : t.pending = s.pending
  readData : t.readData = s.readData

theorem CommandFrame.refl (s : State) : CommandFrame s s := ⟨rfl, rfl, rfl, rfl, rfl, rfl, rfl, rfl⟩

theorem commandFrame_raiseError {r : Raised} (h : CommandFrame s u) : CommandFrame s (raiseError r u) := by
  obtain ⟨hc, hv, hs, hl, hb, hr, hp, hd⟩ := h
  constructor <;> simpa

theorem commandFrame_keptByBodies (s : State) : KeptByBodies True (CommandFrame s) where
  group _ _ h _ _ := { h with }
  block _ _ _ h _ _ := { h with }
  close _ h _ _ := { h with }
  tail _ _ h _ := { h with }
  finish _ h _ := { h with }
  error _ _ _ h _ := commandFrame_raiseError h

theorem KeptByBodies.mono {lanes lanes' : Prop} {P : State → Prop} (hP : KeptByBodies lanes P) (h : lanes' → lanes) :
    KeptByBodies lanes' P := { hP with block := fun hl => hP.block (h hl) }

theorem exec_frame {i : Instr} (h : exec i s = .next t) : CommandFrame s t :=
  exec_keeps ((commandFrame_keptByBodies s).mono fun _ => trivial) (fun h => { h with }) (.refl s) h

/-! ## Every command completes -/

theorem runUnlessErr_next (body : State → Except Raised State) (s : State) : ∃ t, runUnlessErr body s = .next t := by
  rcases runUnlessErr_cases body s with ⟨-, h⟩ | ⟨-, t, -, h⟩ | ⟨-, r, -, h⟩
  · exact ⟨s, h⟩
  · exact ⟨t, h⟩
  · exact ⟨raiseError r s, h⟩

/-- Settles O11: a command ignored, done or failed always answers a next state (R22, R186). -/
theorem commandsAlwaysComplete : Obligations.CommandsAlwaysComplete := by
  intro i s
  cases i with
  | nop => exact ⟨s, rfl⟩
  | init => exact ⟨startHash s, rfl⟩
  | chunk => exact runUnlessErr_next _ s
  | lane4 => exact runUnlessErr_next _ s
  | tail => exact runUnlessErr_next _ s
  | final => exact runUnlessErr_next _ s
  | hash l => exact ⟨_, rfl⟩

end Sys2Proof.Machine
end

section
/-! SUPPORT. The register window and the step: which accesses are admitted, what each register's write and read do, and the
inversion of a step: everything one move of the outside world can do. -/

namespace Sys2Proof.Machine

variable {s t : State} {rest : List HostMove} {mv : HostMove}

/-! ## Admission -/

/-- Exactly the aligned words of the window name a register (R21, R37). -/
theorem windowReg_isSome_iff (n : Nat) : (windowReg n).isSome ↔ n < 0x40 ∧ n % 4 = 0 := by
  constructor
  · unfold windowReg
    split <;> simp
  · rintro ⟨hn, hmod⟩
    obtain ⟨k, rfl⟩ := Nat.dvd_of_mod_eq_zero hmod
    have hall : ∀ k < 16, (windowReg (4 * k)).isSome := by decide
    exact hall k (by omega)

theorem admitAccess_ok_iff {addr size n : Nat} : admitAccess s addr size = .ok n ↔
    s.inReset = false ∧ size = 4 ∧ addr = s.cfg.mhmBase + n ∧ (windowReg n).isSome := by
  rw [windowReg_isSome_iff]
  unfold admitAccess
  split
  case isTrue hr => simp [hr]
  case isFalse hr =>
  split
  case isTrue hout => simp only [reduceCtorEq, false_iff]; omega
  case isFalse hin =>
  split
  case isTrue hsize => simp [hsize]
  case isFalse hsize =>
  split
  case isTrue hmod => simp only [reduceCtorEq, false_iff]; omega
  case isFalse hmod =>
    simp only [Except.ok.injEq, Bool.eq_false_of_not_eq_true hr, true_and]
    omega

/-- An access is admitted at a register of the window, or refused. -/
theorem admitAccess_cases (s : State) (addr size : Nat) :
    (∃ n r, admitAccess s addr size = .ok n ∧ windowReg n = some r ∧
      s.inReset = false ∧ size = 4 ∧ addr = s.cfg.mhmBase + n) ∨
    ∃ e, admitAccess s addr size = .error e := by
  cases h : admitAccess s addr size with
  | error e => exact .inr ⟨e, rfl⟩
  | ok n =>
    obtain ⟨hr, hsize, haddr, hreg⟩ := admitAccess_ok_iff.mp h
    obtain ⟨r, hreg⟩ := Option.isSome_iff_exists.mp hreg
    exact .inl ⟨n, r, rfl, hreg, hr, hsize, haddr⟩

theorem hostRead_at {n : Nat} {r : WindowReg} (hr : s.inReset = false) (hreg : windowReg n = some r) :
    hostRead (s.cfg.mhmBase + n) 4 s = .next { s with readData := some (readReg s r) } := by
  have hadmit : admitAccess s (s.cfg.mhmBase + n) 4 = .ok n := admitAccess_ok_iff.mpr ⟨hr, rfl, rfl, by simp [hreg]⟩
  simp [hostRead, hadmit, hreg]

theorem hostWrite_at {n : Nat} {r : WindowReg} {v : Word} (hr : s.inReset = false) (hreg : windowReg n = some r) :
    hostWrite (s.cfg.mhmBase + n) 4 v s = writeReg v s r := by
  have hadmit : admitAccess s (s.cfg.mhmBase + n) 4 = .ok n := admitAccess_ok_iff.mpr ⟨hr, rfl, rfl, by simp [hreg]⟩
  simp [hostWrite, hadmit, hreg]

theorem hostRead_refused {addr size : Nat} {e : Refusal} (h : admitAccess s addr size = .error e) :
    hostRead addr size s = .refused e := by
  simp [hostRead, h]

theorem hostWrite_refused {addr size : Nat} {v : Word} {e : Refusal} (h : admitAccess s addr size = .error e) :
    hostWrite addr size v s = .refused e := by
  simp [hostWrite, h]

/-! ## One step -/

theorem step_of_no_move (h : s.pending = []) : step s = .next s := by
  simp [step, h]

theorem step_of_move (h : s.pending = mv :: rest) : step s = makeMove mv { s with pending := rest } := by
  simp [step, h]

theorem step_windowWrite {n : Nat} {r : WindowReg} {v : Word} (hr : s.inReset = false)
    (hp : s.pending = windowWrite s n v :: rest) (hreg : windowReg n = some r) :
    step s = writeReg v { s with pending := rest } r := by
  rw [step_of_move hp]
  exact hostWrite_at (s := { s with pending := rest }) hr hreg

theorem step_cmdWrite {w : Word} (hr : s.inReset = false) (hp : s.pending = cmdWrite s w :: rest) :
    step s = issueWord w { s with pending := rest } :=
  step_windowWrite (n := 0) (r := .cmd) hr hp rfl

theorem step_windowRead {n : Nat} {r : WindowReg} (hr : s.inReset = false) (hp : s.pending = windowRead s n :: rest)
    (hreg : windowReg n = some r) :
    step s = .next { s with pending := rest, readData := some (readReg s r) } := by
  rw [step_of_move hp]
  exact hostRead_at (s := { s with pending := rest }) hr hreg

/-! ## What a write does -/

theorem issueWord_of_decode {w : Word} {i : Instr} (h : decode s.cfg.hasLanes w = .ok i) : issueWord w s = exec i s := by
  simp [issueWord, h]

theorem issueWord_of_illegal {w : Word} {e : Illegal} (h : decode s.cfg.hasLanes w = .error e) :
    issueWord w s = .next (raiseError ⟨.illegalCmd, w, 0#32⟩ s) := by
  simp [issueWord, h]

/-- A decoded command exists on this MHM32 (R84, R154). -/
theorem wellFormed_of_decode {hasLanes : Bool} {w : Word} {i : Instr} (h : decode hasLanes w = .ok i) :
    i.wellFormed hasLanes = true := by
  unfold decode at h
  split at h
  · cases h
  · split at h
    · cases h
    · split at h
      · cases h; assumption
      · cases h

theorem hashInProgress_iff : hashInProgress s = true ↔ s.err = false ∧ (s.phase = .body ∨ s.phase = .tailed) := by
  simp [hashInProgress]

theorem not_hashInProgress_iff : hashInProgress s = false ↔ s.err = true ∨ s.phase = .idle ∨ s.phase = .done := by
  cases hp : s.phase <;> simp [hashInProgress, hp]

theorem writeConfig_locked {offset : Word} {store : State} (h : hashInProgress s = true) :
    writeConfig offset store s = raiseError ⟨.configLocked, offset, 0#32⟩ s := by
  simp [writeConfig, h]

theorem writeConfig_stored {offset : Word} {store : State} (h : hashInProgress s = false) :
    writeConfig offset store s = store := by
  simp [writeConfig, h]

/-- `u` is `s` with one of SEED, LEN and BASE rewritten. -/
inductive ConfigStored (s : State) : State → Prop
  | seed (v : Word) : ConfigStored s { s with seed := v }
  | len (v : Word) : ConfigStored s { s with len := v }
  | base (v : Word) : ConfigStored s { s with base := v }

/-! ## Everything a step can do -/

/-- The effects a move of the outside world can have on `s` (R20, R22, R28, R38, R74, R210). -/
inductive MoveEffect (s : State) : HostMove → State → Prop
  /-- A read returns a value and changes nothing else. -/
  | read {addr size : Nat} (hr : s.inReset = false) (v : Word) :
      MoveEffect s (.read addr size) { s with readData := some v }
  /-- A write of a read-only register changes nothing. -/
  | ignored {addr : Nat} {v : Word} (hr : s.inReset = false) : MoveEffect s (.write addr 4 v) s
  /-- A write of a legal word to CMD runs its command. -/
  | command {w : Word} {i : Instr} {t : State} (hr : s.inReset = false) (hd : decode s.cfg.hasLanes w = .ok i)
      (hexec : exec i s = .next t) : MoveEffect s (cmdWrite s w) t
  /-- A write of an illegal word to CMD raises ILLEGAL_CMD. -/
  | illegal {w : Word} {e : Illegal} (hr : s.inReset = false) (hd : decode s.cfg.hasLanes w = .error e) :
      MoveEffect s (cmdWrite s w) (raiseError ⟨.illegalCmd, w, 0#32⟩ s)
  /-- A configuration write during a hash raises CONFIG_LOCKED. -/
  | locked {addr : Nat} {v offset : Word} (hr : s.inReset = false) (hh : hashInProgress s = true) :
      MoveEffect s (.write addr 4 v) (raiseError ⟨.configLocked, offset, 0#32⟩ s)
  /-- A configuration write at any other time is stored. -/
  | stored {addr : Nat} {v : Word} {u : State} (hr : s.inReset = false) (hh : hashInProgress s = false)
      (hu : ConfigStored s u) : MoveEffect s (.write addr 4 v) u
  /-- Reset is asserted. -/
  | assertReset : MoveEffect s .assertReset { resetRegisters s with inReset := true }
  /-- Reset is released. -/
  | releaseReset : MoveEffect s .releaseReset { s with inReset := false }
  /-- The view changes at one address. -/
  | setView {a : Word} {b : Option Byte} (hh : (hashInProgress s && isInputByte s a) = false) :
      MoveEffect s (.setView a b) { s with view := s.view.set a b }

theorem writeConfig_effect {addr : Nat} {v offset : Word} {u : State} (hr : s.inReset = false) (hu : ConfigStored s u) :
    MoveEffect s (.write addr 4 v) (writeConfig offset u s) := by
  cases hh : hashInProgress s with
  | true => rw [writeConfig_locked hh]; exact .locked hr hh
  | false => rw [writeConfig_stored hh]; exact .stored hr hh hu

theorem issueWord_effect {w : Word} (hr : s.inReset = false) (h : issueWord w s = .next t) :
    MoveEffect s (cmdWrite s w) t := by
  cases hd : decode s.cfg.hasLanes w with
  | ok i => exact .command hr hd (issueWord_of_decode hd ▸ h)
  | error e => rw [issueWord_of_illegal hd] at h; cases h; exact .illegal hr hd

theorem windowReg_cmd {n : Nat} (h : windowReg n = some .cmd) : n = 0 := by
  unfold windowReg at h
  split at h
  · rfl
  all_goals cases h

theorem hostWrite_effect {addr size : Nat} {v : Word} (h : hostWrite addr size v s = .next t) :
    MoveEffect s (.write addr size v) t := by
  rcases admitAccess_cases s addr size with ⟨n, r, -, hreg, hr, rfl, rfl⟩ | ⟨e, he⟩
  · rw [hostWrite_at hr hreg] at h
    cases r with
    | cmd => obtain rfl := windowReg_cmd hreg; exact issueWord_effect hr h
    | seed => cases h; exact writeConfig_effect hr (.seed v)
    | len => cases h; exact writeConfig_effect hr (.len v)
    | base => cases h; exact writeConfig_effect hr (.base v)
    | _ => cases h; exact .ignored hr
  · rw [hostWrite_refused he] at h; cases h

theorem makeMove_effect (h : makeMove mv s = .next t) : MoveEffect s mv t := by
  cases mv with
  | read addr size =>
    rcases admitAccess_cases s addr size with ⟨n, r, -, hreg, hr, rfl, rfl⟩ | ⟨e, he⟩
    · rw [makeMove, hostRead_at hr hreg] at h; cases h; exact .read hr _
    · rw [makeMove, hostRead_refused he] at h; cases h
  | write addr size v => exact hostWrite_effect h
  | assertReset => cases h; exact .assertReset
  | releaseReset => cases h; exact .releaseReset
  | setView a b =>
    simp only [makeMove, changeView] at h
    split at h
    · cases h
    · rename_i hopen; cases h; exact .setView (Bool.eq_false_of_not_eq_true hopen)

/-- Everything a step that answers a next state can do. -/
theorem step_cases (h : step s = .next t) :
    (s.pending = [] ∧ t = s) ∨
    ∃ mv rest, s.pending = mv :: rest ∧ MoveEffect { s with pending := rest } mv t := by
  cases hp : s.pending with
  | nil => rw [step_of_no_move hp] at h; cases h; exact .inl ⟨rfl, rfl⟩
  | cons mv rest => rw [step_of_move hp] at h; exact .inr ⟨mv, rest, rfl, makeMove_effect h⟩

/-- A move takes nothing off the queue itself and writes no parameter. -/
theorem moveEffect_keeps (h : MoveEffect s mv t) : t.pending = s.pending ∧ t.cfg = s.cfg := by
  cases h with
  | read | ignored | assertReset | releaseReset | setView => exact ⟨rfl, rfl⟩
  | command _ _ hexec => exact ⟨(exec_frame hexec).pending, (exec_frame hexec).cfg⟩
  | illegal | locked => simp
  | stored _ _ hu => cases hu <;> exact ⟨rfl, rfl⟩

/-- Settles O10: the step takes its move off the queue, and no effect of a move touches queue or parameters. -/
theorem stepTakesOneMove : Obligations.StepTakesOneMove := by
  intro s t h
  rcases step_cases h with ⟨hp, rfl⟩ | ⟨mv, rest, hp, he⟩
  · simp [hp]
  · simpa [hp] using moveEffect_keeps he

/-- Settles O8: the write is admitted at CMD, and its word decodes. -/
theorem stepRunsTheDecodedCommand : Obligations.StepRunsTheDecodedCommand := by
  intro s w rest i hr hp hd
  rw [step_cmdWrite hr hp]
  exact issueWord_of_decode (s := { s with pending := rest }) hd

/-! ## The register window -/

theorem writeReg_next (v : Word) (s : State) (r : WindowReg) : ∃ t, writeReg v s r = .next t := by
  cases r with
  | cmd =>
    cases hd : decode s.cfg.hasLanes v with
    | ok i =>
      obtain ⟨t, ht⟩ := commandsAlwaysComplete i s
      exact ⟨t, (issueWord_of_decode hd).trans ht⟩
    | error e => exact ⟨_, issueWord_of_illegal hd⟩
  | _ => exact ⟨_, rfl⟩

/-- Outside reset, the accesses admitted are the 32-bit ones at the sixteen words of the window (R37, R39). -/
theorem admitAccess_admits_iff {addr size : Nat} (hr : s.inReset = false) :
    (∃ n, admitAccess s addr size = .ok n) ↔ size = 4 ∧ ∃ k, k < 16 ∧ addr = s.cfg.mhmBase + 4 * k := by
  simp only [admitAccess_ok_iff, windowReg_isSome_iff, hr, true_and]
  constructor
  · rintro ⟨n, hsize, haddr, hn, hmod⟩
    exact ⟨hsize, n / 4, by omega, by omega⟩
  · rintro ⟨hsize, k, hk, haddr⟩
    exact ⟨4 * k, hsize, haddr, by omega, by omega⟩

theorem access_of_admitted {addr size n : Nat} (v : Word) (h : admitAccess s addr size = .ok n) :
    (∃ t, hostRead addr size s = .next t) ∧ ∃ t, hostWrite addr size v s = .next t := by
  obtain ⟨hr, rfl, rfl, hreg⟩ := admitAccess_ok_iff.mp h
  obtain ⟨r, hreg⟩ := Option.isSome_iff_exists.mp hreg
  rw [hostWrite_at hr hreg]
  exact ⟨⟨_, hostRead_at hr hreg⟩, writeReg_next v s r⟩

theorem access_of_not_admitted {addr size : Nat} (v : Word) (h : ¬ ∃ n, admitAccess s addr size = .ok n) :
    (∃ e, hostRead addr size s = .refused e) ∧ ∃ e, hostWrite addr size v s = .refused e := by
  cases he : admitAccess s addr size with
  | ok n => exact absurd ⟨n, he⟩ h
  | error e => exact ⟨⟨e, hostRead_refused he⟩, e, hostWrite_refused he⟩

/-- Settles O25: the first clause is about the admitted accesses, which all answer a next state, and the second about the
others, which the admission refuses. -/
theorem onlyAlignedWordAccessesAdmitted : Obligations.OnlyAlignedWordAccessesAdmitted := by
  intro s addr size v rest hr hp
  rw [← admitAccess_admits_iff (s := { s with pending := rest }) hr]
  refine ⟨fun ⟨n, hok⟩ => ?_, fun hno => ?_⟩
  · obtain ⟨hread, hwrite⟩ := access_of_admitted v hok
    rcases hp with hp | hp <;> rw [step_of_move hp]
    · exact hread
    · exact hwrite
  · obtain ⟨hread, hwrite⟩ := access_of_not_admitted v hno
    rcases hp with hp | hp <;> rw [step_of_move hp]
    · exact hread
    · exact hwrite

/-- Settles O23: the lock is `hashInProgress`, and its two answers are the statement's two cases. -/
theorem configurationLock : Obligations.ConfigurationLock := by
  intro s v rest hr
  refine ⟨fun he hp offset hoff hpend => ?_, fun h => ?_⟩
  · have hlock : hashInProgress { s with pending := rest } = true := hashInProgress_iff.mpr ⟨he, hp⟩
    rcases hoff with rfl | rfl | rfl <;>
      rw [step_windowWrite hr hpend rfl, writeReg, writeConfig_locked hlock,
        raiseError_of_no_err _ { s with pending := rest } he]
  · have hopen : hashInProgress { s with pending := rest } = false := not_hashInProgress_iff.mpr h
    refine ⟨fun hpend => ?_, fun hpend => ?_, fun hpend => ?_⟩ <;>
      rw [step_windowWrite hr hpend rfl, writeReg, writeConfig_stored hopen]

/-- Settles O24: every offset of the two lists names its register, whose write is ignored and whose read is `readReg`. -/
theorem readsAndReadOnlyWrites : Obligations.ReadsAndReadOnlyWrites := by
  intro s rest hr
  constructor
  · intro v offset hmem hp
    simp only [List.mem_cons, List.not_mem_nil, or_false] at hmem
    rcases hmem with rfl | rfl | rfl | rfl | rfl | rfl | rfl | rfl | rfl | rfl | rfl | rfl <;>
      exact step_windowWrite hr hp rfl
  · intro offset v hmem hp
    simp only [List.mem_cons, List.not_mem_nil, or_false, Prod.mk.injEq] at hmem
    rcases hmem with ⟨rfl, rfl⟩ | ⟨rfl, rfl⟩ | ⟨rfl, rfl⟩ | ⟨rfl, rfl⟩ | ⟨rfl, rfl⟩ | ⟨rfl, rfl⟩ | ⟨rfl, rfl⟩ |
      ⟨rfl, rfl⟩ | ⟨rfl, rfl⟩ | ⟨rfl, rfl⟩ | ⟨rfl, rfl⟩ | ⟨rfl, rfl⟩ | ⟨rfl, rfl⟩ | ⟨rfl, rfl⟩ | ⟨rfl, rfl⟩ |
      ⟨rfl, rfl⟩ <;> exact step_windowRead hr hp rfl

end Sys2Proof.Machine
end

section
/-! SUPPORT. The invariant of the machine: every update of the registers keeps it, hence every command, every move of the
outside world and every step. -/

namespace Sys2Proof.Machine

variable {s t : State} {mv : HostMove}

/-- Settles O2: the reset state has an empty view, no error and registers 0. -/
theorem resetStateMeetsInvariant : Obligations.ResetStateMeetsInvariant where
  viewCanonical := Memory.wf_nil
  bodyOffset := by decide
  tailedOffset := by decide
  mixed := by decide
  noRecord := by decide
  recorded := by decide
  addrOfViewFault := by decide
  doneResult := by decide
  noResult := by decide
  idleRegisters := by decide
  lanesAbsent := by decide
  heldInReset := nofun

/-! ## The updates of the registers -/

/-- Consuming `n` of the bytes that remain does not wrap OFF. -/
theorem off_add_toNat {n : Nat} (h : n ≤ remaining s) (hpos : 0 < n) :
    (s.off + BitVec.ofNat 32 n).toNat = s.off.toNat + n := by
  have hlen : s.len.toNat < 2 ^ 32 := s.len.isLt
  unfold remaining at h
  rw [BitVec.toNat_add, BitVec.toNat_ofNat, Nat.add_mod_mod, Nat.mod_eq_of_lt (by omega)]

theorem remaining_of_advanced {n : Nat} (h : n ≤ remaining s) (hpos : 0 < n) (hoff : t.off = s.off + BitVec.ofNat 32 n)
    (hlen : t.len = s.len) : remaining t + n = remaining s := by
  have hadd := off_add_toNat h hpos
  unfold remaining at h ⊢
  rw [hoff, hlen, hadd]
  omega

/-- Outside IDLE reset is released, since it holds PHASE at IDLE. -/
theorem Invariant.released (hi : Invariant s) (hp : s.phase ≠ .idle) : s.inReset = false := by
  cases hr : s.inReset with
  | false => rfl
  | true =>
    obtain ⟨-, -, -, -, -, -, -, -, -, -, -, -, -, -, hphase, -⟩ := hi.heldInReset hr
    exact absurd hphase hp

theorem invariant_raiseError {r : Raised} (hi : Invariant s) (hr : s.inReset = false) (hcode : r.code ≠ .none)
    (haddr : r.code ≠ .viewFault → r.addr = 0#32) : Invariant (raiseError r s) := by
  cases he : s.err with
  | true => rwa [raiseError_of_err r s he]
  | false =>
    rw [raiseError_of_no_err r s he]
    exact { hi with
      bodyOffset := nofun
      tailedOffset := nofun
      noRecord := nofun
      recorded := fun _ => hcode
      addrOfViewFault := haddr
      heldInReset := fun h => absurd (hr.symm.trans h) nofun }

theorem invariant_startHash (hi : Invariant s) (hr : s.inReset = false) : Invariant (startHash s) where
  viewCanonical := hi.viewCanonical
  bodyOffset _ _ := by simp
  tailedOffset _ := nofun
  mixed := by rw [startHash_m, startHash_k]; decide
  noRecord _ := ⟨rfl, rfl, rfl⟩
  recorded := nofun
  addrOfViewFault _ := rfl
  doneResult := nofun
  noResult _ := rfl
  idleRegisters := nofun
  lanesAbsent _ := ⟨rfl, rfl, rfl, rfl⟩
  heldInReset h := absurd (hr.symm.trans h) nofun

/-- Folding `n` bytes of the body, `n` a multiple of 4, keeps the invariant: it writes OFF, H, K, M and, with the lane
mixer, the lanes. -/
theorem invariant_of_fold {n : Nat} (hi : Invariant s) (hp : s.phase = .body) (hn : n ≤ remaining s) (hpos : 0 < n)
    (hmod : n % 4 = 0) (hmixed : t.m = mixK t.k)
    (hlanes : s.cfg.hasLanes = false → t.lane0 = 0#32 ∧ t.lane1 = 0#32 ∧ t.lane2 = 0#32 ∧ t.lane3 = 0#32)
    (ht : t = { s with
      off := s.off + BitVec.ofNat 32 n, h := t.h, k := t.k, m := t.m,
      lane0 := t.lane0, lane1 := t.lane1, lane2 := t.lane2, lane3 := t.lane3 }) : Invariant t := by
  have hr : s.inReset = false := hi.released (by simp [hp])
  have hoff := off_add_toNat hn hpos
  rw [ht]
  exact { hi with
    bodyOffset := fun he _ => by
      obtain ⟨-, h4⟩ := hi.bodyOffset he hp
      simp only [hoff]
      unfold remaining at hn
      omega
    tailedOffset := fun _ h => absurd (hp.symm.trans h) nofun
    mixed := hmixed
    doneResult := fun h => absurd (hp.symm.trans h) nofun
    idleRegisters := fun h => absurd (hp.symm.trans h) nofun
    lanesAbsent := hlanes
    heldInReset := fun h => absurd (hr.symm.trans h) nofun }

theorem invariant_foldGroup (k : Word) (hi : Invariant s) (hp : s.phase = .body) (hn : 4 ≤ remaining s) :
    Invariant (foldGroup k s) :=
  invariant_of_fold hi hp hn (by decide) (by decide) rfl hi.lanesAbsent rfl

theorem invariant_foldBlock (b : Block) (hi : Invariant s) (hl : s.cfg.hasLanes = true) (hp : s.phase = .body)
    (hn : 16 ≤ remaining s) : Invariant (foldBlock b s) :=
  invariant_of_fold hi hp hn (by decide) (by decide) rfl (fun h => absurd (hl.symm.trans h) nofun) rfl

theorem invariant_closeBody (hi : Invariant s) (hp : s.phase = .body) (hn : remaining s = 0) :
    Invariant (closeBody s) :=
  { hi with
    bodyOffset := fun _ => nofun
    tailedOffset := fun he _ => by
      obtain ⟨hle, -⟩ := hi.bodyOffset he hp
      unfold remaining at hn
      exact BitVec.eq_of_toNat_eq (by simp only [closeBody_off, closeBody_len]; omega)
    doneResult := nofun
    noResult := fun _ => hi.noResult (by simp [hp])
    idleRegisters := nofun
    heldInReset := fun h => absurd ((hi.released (by simp [hp])).symm.trans h) nofun }

theorem invariant_foldTail (k : Word) (hi : Invariant s) (hp : s.phase = .body) : Invariant (foldTail k s) :=
  { hi with
    bodyOffset := fun _ => nofun
    tailedOffset := fun _ _ => rfl
    mixed := rfl
    doneResult := nofun
    noResult := fun _ => hi.noResult (by simp [hp])
    idleRegisters := nofun
    heldInReset := fun h => absurd ((hi.released (by simp [hp])).symm.trans h) nofun }

theorem invariant_finishHash (hi : Invariant s) (hp : s.phase = .tailed) : Invariant (finishHash s) :=
  { hi with
    bodyOffset := fun _ => nofun
    tailedOffset := fun _ => nofun
    doneResult := fun _ => rfl
    noResult := fun h => absurd rfl h
    idleRegisters := nofun
    heldInReset := fun h => absurd ((hi.released (by simp [hp])).symm.trans h) nofun }

/-! ## The commands -/

/-- The invariant with reset released and the parameters fixed: what a command keeps from sub-step to sub-step. -/
structure RunsWith (c : Config) (s : State) : Prop where
  invariant : Invariant s
  released : s.inReset = false
  params : s.cfg = c

theorem runsWith_keptByBodies (c : Config) : KeptByBodies (c.hasLanes = true) (RunsWith c) where
  group k _ h hp hn := ⟨invariant_foldGroup k h.invariant hp hn, h.released, h.params⟩
  block hl b _ h hp hn := ⟨invariant_foldBlock b h.invariant (h.params ▸ hl) hp hn, h.released, h.params⟩
  close _ h hp hn := ⟨invariant_closeBody h.invariant hp hn, h.released, h.params⟩
  tail k _ h hp := ⟨invariant_foldTail k h.invariant hp, h.released, h.params⟩
  finish _ h hp := ⟨invariant_finishHash h.invariant hp, h.released, h.params⟩
  error _ r s h hr :=
    ⟨invariant_raiseError h.invariant h.released hr.code_ne_none hr.addr,
      (raiseError_inReset r s).trans h.released, (raiseError_cfg r s).trans h.params⟩

/-- LANE4 and HASH with L = 1 exist only with the lane mixer (R154). -/
theorem hasLanes_of_wellFormed {hasLanes : Bool} {i : Instr} (hi : i.wellFormed hasLanes = true)
    (h : i = .lane4 ∨ i = .hash true) : hasLanes = true := by
  rcases h with rfl | rfl <;> simpa [Instr.wellFormed] using hi

theorem exec_keeps_invariant {i : Instr} (hi : Invariant s) (hr : s.inReset = false)
    (hwf : i.wellFormed s.cfg.hasLanes = true) (h : exec i s = .next t) : Invariant t :=
  (exec_keeps ((runsWith_keptByBodies s.cfg).mono (hasLanes_of_wellFormed hwf))
    (fun hs => ⟨invariant_startHash hs.invariant hs.released, hs.released, hs.params⟩) ⟨hi, hr, rfl⟩ h).invariant

/-! ## The moves of the outside world -/

theorem invariant_resetRegisters (hi : Invariant s) : Invariant { resetRegisters s with inReset := true } where
  viewCanonical := hi.viewCanonical
  bodyOffset _ := nofun
  tailedOffset _ := nofun
  mixed := by simp only [resetRegisters_m, resetRegisters_k]; decide
  noRecord _ := ⟨rfl, rfl, rfl⟩
  recorded := nofun
  addrOfViewFault _ := rfl
  doneResult := nofun
  noResult _ := rfl
  idleRegisters _ := ⟨rfl, rfl, rfl, rfl, rfl, rfl, rfl⟩
  lanesAbsent _ := ⟨rfl, rfl, rfl, rfl⟩
  heldInReset _ := ⟨rfl, rfl, rfl, rfl, rfl, rfl, rfl, rfl, rfl, rfl, rfl, rfl, rfl, rfl, rfl, rfl, rfl⟩

/-- SEED and BASE stand in no clause, and LEN only in those of a hash in progress, when no write is stored. -/
theorem invariant_configStored (hi : Invariant s) (hr : s.inReset = false) (hh : hashInProgress s = false)
    (ht : ConfigStored s t) : Invariant t := by
  have hreset : s.inReset = true → False := fun h => absurd (hr.symm.trans h) nofun
  have hbusy : s.err = false → s.phase = .body ∨ s.phase = .tailed → False := fun he hp =>
    absurd (hh.symm.trans (hashInProgress_iff.mpr ⟨he, hp⟩)) nofun
  cases ht with
  | seed v => exact { hi with heldInReset := fun h => (hreset h).elim }
  | base v => exact { hi with heldInReset := fun h => (hreset h).elim }
  | len v =>
    exact { hi with
      bodyOffset := fun he hp => (hbusy he (.inl hp)).elim
      tailedOffset := fun he hp => (hbusy he (.inr hp)).elim
      heldInReset := fun h => (hreset h).elim }

theorem moveEffect_keeps_invariant (hi : Invariant s) (h : MoveEffect s mv t) : Invariant t := by
  cases h with
  | read hr v => exact { hi with }
  | ignored hr => exact hi
  | command hr hd hexec => exact exec_keeps_invariant hi hr (wellFormed_of_decode hd) hexec
  | illegal hr hd => exact invariant_raiseError hi hr nofun fun _ => rfl
  | locked hr hh => exact invariant_raiseError hi hr nofun fun _ => rfl
  | stored hr hh hu => exact invariant_configStored hi hr hh hu
  | assertReset => exact invariant_resetRegisters hi
  | releaseReset => exact { hi with heldInReset := nofun }
  | setView hh => exact { hi with viewCanonical := Memory.wf_set _ _ _ hi.viewCanonical }

/-- Settles O3: taking the move off the queue changes no clause, and every effect of a move keeps them all. -/
theorem stepKeepsInvariant : Obligations.StepKeepsInvariant := by
  intro s t hi h
  rcases step_cases h with ⟨-, rfl⟩ | ⟨mv, rest, -, he⟩
  · exact hi
  · exact moveEffect_keeps_invariant (s := { s with pending := rest }) { hi with } he

end Sys2Proof.Machine
end

section
/-! SUPPORT. The phase machine of R41: what each command makes of PHASE and ERRCODE, for HASH by following its loops to the
point where fewer than 4 bytes remain; and the fields of STATUS. -/

namespace Sys2Proof.Machine

variable {w : Word} {s t : State} {r : Raised} {body : State → Except Raised State}

/-! ## The loops of HASH, with their guard -/

/-- A loop of HASH whose every round consumes `size` bytes ends with fewer than `size` remaining; its body runs only where
`size` bytes remain (R161). -/
theorem consumeAll_stands {size : Nat} {P Q : State → Prop} (hsize : 0 < size)
    (hok : ∀ s t, P s → size ≤ remaining s → body s = .ok t → P t ∧ remaining t + size = remaining s)
    (herr : ∀ s r, P s → size ≤ remaining s → body s = .error r → Q (raiseError r s)) (hs : P s) :
    Stands (fun t => P t ∧ remaining t < size) Q (consumeAll size body s) := by
  suffices hloop : ∀ fuel s, remaining s < (fuel + 1) * size → P s →
      Stands (fun t => P t ∧ remaining t < size) Q (whileRemaining size body fuel s) from
    hloop _ s (Nat.lt_mul_of_div_lt (Nat.lt_succ_self _) hsize) hs
  intro fuel
  induction fuel with
  | zero => exact fun s hr hs => ⟨hs, by simpa using hr⟩
  | succ fuel ih =>
    intro s hr hs
    simp only [whileRemaining]
    split
    · rename_i hguard
      cases hb : body s with
      | ok t =>
        obtain ⟨ht, hconsumed⟩ := hok s t hs hguard hb
        rw [perform_ok.mpr hb]
        exact ih t (by rw [Nat.succ_mul] at hr; omega) ht
      | error r =>
        rw [perform_error.mpr ⟨r, hb, rfl⟩]
        exact herr s r hs hguard hb
    · rename_i hguard
      exact ⟨hs, by omega⟩

theorem Stands.imp {P P' Q : State → Prop} {x : Except State State} (hx : Stands P Q x) (h : ∀ t, P t → P' t) :
    Stands P' Q x := by
  cases x with
  | ok t => exact h t hx
  | error t => exact hx

theorem Stands.bind {P P' Q : State → Prop} {x : Except State State} {f : State → Except State State}
    (hx : Stands P Q x) (hf : ∀ t, P t → Stands P' Q (f t)) : Stands P' Q (x >>= f) := by
  cases x with
  | ok t => exact hf t hx
  | error t => exact hx

theorem Stands.endState {Q : State → Prop} {x : Except State State} (hx : Stands Q Q x) : Q (endState x) := by
  cases x <;> exact hx

/-! ## What a body's answer makes of PHASE and the record -/

/-- What CHUNK (`n` = 4) and LANE4 (`n` = 16) do to the controller when they succeed. -/
structure Folded (n : Nat) (s t : State) : Prop where
  inBody : s.phase = .body
  phase : t.phase = s.phase
  err : t.err = s.err
  errCode : t.errCode = s.errCode
  consumed : remaining t + n = remaining s

theorem chunkBody_folded (h : chunkBody w s = .ok t) : Folded 4 s t := by
  obtain ⟨hp, hr, bytes, -, rfl⟩ := chunkBody_ok h
  exact ⟨hp, rfl, rfl, rfl, remaining_of_advanced hr (by decide) rfl rfl⟩

theorem lane4Body_folded (h : lane4Body w s = .ok t) : Folded 16 s t := by
  obtain ⟨hp, hr, bytes, -, rfl⟩ := lane4Body_ok h
  exact ⟨hp, rfl, rfl, rfl, remaining_of_advanced hr (by decide) rfl rfl⟩

theorem tailBody_ok_phase (h : tailBody w s = .ok t) : t.phase = .tailed ∧ t.err = s.err := by
  obtain ⟨-, ⟨-, rfl⟩ | ⟨-, -, bytes, -, rfl⟩⟩ := tailBody_ok h <;> exact ⟨rfl, rfl⟩

theorem raiseError_errCode (he : s.err = false) : (raiseError r s).errCode = r.code := by
  rw [raiseError_of_no_err r s he]

/-! ## HASH -/

/-- In BODY with no error: where HASH stands until its TAIL. -/
structure InBody (s : State) : Prop where
  phase : s.phase = .body
  err : s.err = false

/-- How HASH can end: in DONE with no error, or in BODY at an unreadable byte (R41, R161). -/
def HashEnd (t : State) : Prop :=
  (t.phase = .done ∧ t.err = false) ∨ (t.phase = .body ∧ t.errCode = .viewFault)

theorem hashEnd_raiseError (hs : InBody s) (hcode : r.code = .viewFault) : HashEnd (raiseError r s) :=
  .inr ⟨(raiseError_phase r s).trans hs.phase, (raiseError_errCode hs.err).trans hcode⟩

/-- A loop of HASH whose body folds `n` bytes: it runs out of bytes or meets an unreadable one, and never asks for a fold
that is out of order or out of bounds. -/
theorem foldLoop_stands {n : Nat} (hn : 0 < n) (hok : ∀ s t, body s = .ok t → Folded n s t)
    (herr : ∀ s r, body s = .error r → FoldError n w s r) (hs : InBody s) :
    Stands (fun t => InBody t ∧ remaining t < n) HashEnd (consumeAll n body s) := by
  refine consumeAll_stands hn (fun s t hs _ hb => ?_) (fun s r hs hr hb => ?_) hs
  · have hfold := hok s t hb
    exact ⟨⟨hfold.phase.trans hs.phase, hfold.err.trans hs.err⟩, hfold.consumed⟩
  · cases herr s r hb with
    | sequence hp => exact absurd hs.phase hp
    | bounds _ hlt => omega
    | viewFault => exact hashEnd_raiseError hs rfl

theorem laneSteps_stands (l : Bool) (hs : InBody s) : Stands InBody HashEnd (laneSteps l w s) := by
  cases l with
  | false => exact hs
  | true =>
    exact (foldLoop_stands (by decide) (fun _ _ => lane4Body_folded) (fun _ _ => lane4Body_error) hs).imp fun _ h => h.1

theorem chunkLoop_stands (hs : InBody s) :
    Stands (fun t => InBody t ∧ remaining t < 4) HashEnd (consumeAll 4 (chunkBody w) s) :=
  foldLoop_stands (by decide) (fun _ _ => chunkBody_folded) (fun _ _ => chunkBody_error) hs

/-- HASH's TAIL is in order once fewer than 4 bytes remain. -/
theorem performTail_stands (hs : InBody s) (hr : remaining s < 4) :
    Stands (fun t => t.phase = .tailed ∧ t.err = false) HashEnd (perform (tailBody w) s) := by
  refine perform_stands (fun t hb => ?_) (fun r hb => ?_)
  · obtain ⟨hp, he⟩ := tailBody_ok_phase hb
    exact ⟨hp, he.trans hs.err⟩
  · rcases tailBody_error hb with ⟨hp | h4, -⟩ | ⟨-, -, -, a, -, rfl⟩
    · exact absurd hs.phase hp
    · omega
    · exact hashEnd_raiseError hs rfl

theorem performFinal_stands (hp : s.phase = .tailed) (he : s.err = false) :
    Stands HashEnd HashEnd (perform (finalBody w) s) := by
  have hb : finalBody w s = .ok (finishHash s) := by simp [finalBody, hp]
  rw [perform_ok.mpr hb]
  exact .inl ⟨rfl, he⟩

/-- HASH ends in DONE or at an unreadable byte: its loops leave fewer than 4 bytes, so its TAIL and FINAL are in order. -/
theorem hashSteps_hashEnd (l : Bool) (hs : InBody s) : HashEnd (endState (hashSteps l w s)) :=
  Stands.endState <|
    (laneSteps_stands l hs).bind fun _ hlanes =>
    (chunkLoop_stands hlanes).bind fun _ ⟨hchunks, hr⟩ =>
    (performTail_stands hchunks hr).bind fun _ ⟨hp, he⟩ =>
    performFinal_stands hp he

/-! ## The phase table -/

/-- CHUNK and LANE4 are allowed in BODY alone and stay there. -/
def FoldPhases (s t : State) : Prop :=
  (s.phase = .body ∧ t.phase = .body ∧ t.errCode ≠ .sequence) ∨
  (s.phase ≠ .body ∧ t.phase = s.phase ∧ t.errCode = .sequence)

theorem foldPhases_of_run {n : Nat} (he : s.err = false) (hc : s.errCode = .none)
    (hok : body s = .ok t → Folded n s t) (herr : ∀ r, body s = .error r → FoldError n w s r)
    (h : runUnlessErr body s = .next t) : FoldPhases s t := by
  rcases runUnlessErr_cases_of_no_err h he with hb | ⟨r, hb, rfl⟩
  · have hfold := hok hb
    exact .inl ⟨hfold.inBody, hfold.phase.trans hfold.inBody, by simp [hfold.errCode, hc]⟩
  · have hphase := raiseError_phase r s
    have hcode := raiseError_errCode (r := r) he
    cases herr r hb with
    | sequence hp => exact .inr ⟨hp, hphase, hcode⟩
    | bounds hp | viewFault hp => exact .inl ⟨hp, hphase.trans hp, by simp [hcode]⟩

theorem execTail_phases (he : s.err = false) (h : execTail s = .next t) :
    (s.phase = .body ∧ remaining s < 4 ∧
      ((t.phase = .tailed ∧ t.err = false) ∨ (t.phase = .body ∧ t.errCode = .viewFault))) ∨
    ((s.phase ≠ .body ∨ 4 ≤ remaining s) ∧ t.phase = s.phase ∧ t.errCode = .sequence) := by
  rcases runUnlessErr_cases_of_no_err h he with hb | ⟨r, hb, rfl⟩
  · obtain ⟨hphase, herr⟩ := tailBody_ok_phase hb
    obtain ⟨hp, hcase⟩ := tailBody_ok hb
    have hr : remaining s < 4 := by rcases hcase with ⟨hr, -⟩ | ⟨-, hr, -⟩ <;> omega
    exact .inl ⟨hp, hr, .inl ⟨hphase, herr.trans he⟩⟩
  · have hphase := raiseError_phase r s
    have hcode := raiseError_errCode (r := r) he
    rcases tailBody_error hb with ⟨hseq, rfl⟩ | ⟨hp, -, hr, a, -, rfl⟩
    · exact .inr ⟨hseq, hphase, hcode⟩
    · exact .inl ⟨hp, by omega, .inr ⟨hphase.trans hp, hcode⟩⟩

theorem execFinal_phases (he : s.err = false) (h : execFinal s = .next t) :
    (s.phase = .tailed ∧ t.phase = .done ∧ t.err = false) ∨
    (s.phase ≠ .tailed ∧ t.phase = s.phase ∧ t.errCode = .sequence) := by
  rcases runUnlessErr_cases_of_no_err h he with hb | ⟨r, hb, rfl⟩
  · obtain ⟨hp, rfl⟩ := finalBody_ok hb
    exact .inl ⟨hp, rfl, he⟩
  · have hphase := raiseError_phase r s
    have hcode := raiseError_errCode (r := r) he
    obtain ⟨hp, rfl⟩ := finalBody_error hb
    exact .inr ⟨hp, hphase, hcode⟩

theorem execHash_hashEnd {l : Bool} (h : execHash l s = .next t) : HashEnd t := by
  cases h
  exact hashSteps_hashEnd l ⟨rfl, rfl⟩

theorem four_le_remaining_iff : 4 ≤ remaining s ↔ s.off.toNat + 4 ≤ s.len.toNat := by
  unfold remaining
  omega

/-- Settles O19: the phase table row by row, one command's lemma at a time. -/
theorem phaseTransitions : Obligations.PhaseTransitions := by
  intro s t i he hc h
  have hfold : i = .chunk ∨ i = .lane4 → FoldPhases s t := by
    rintro (rfl | rfl)
    · exact foldPhases_of_run he hc chunkBody_folded (fun _ => chunkBody_error) h
    · exact foldPhases_of_run he hc lane4Body_folded (fun _ => lane4Body_error) h
  refine ⟨?_, ?_, ?_, ?_, ?_, ?_, ?_, ?_, ?_⟩
  · rintro rfl; cases h; exact ⟨rfl, he⟩
  · rintro rfl; cases h; exact ⟨rfl, rfl⟩
  · intro hi hp
    rcases hfold hi with ⟨-, hend⟩ | ⟨hn, -⟩
    · exact hend
    · exact absurd hp hn
  · intro hi hn
    rcases hfold hi with ⟨hp, -⟩ | ⟨-, hend⟩
    · exact absurd hp hn
    · exact hend
  · rintro rfl hp hlt
    rcases execTail_phases he h with ⟨-, -, hend⟩ | ⟨hn | h4, -⟩
    · exact hend
    · exact absurd hp hn
    · rw [four_le_remaining_iff] at h4; omega
  · rintro rfl hseq
    rw [← four_le_remaining_iff] at hseq
    rcases execTail_phases he h with ⟨hp, hr, -⟩ | ⟨-, hend⟩
    · rcases hseq with hn | h4
      · exact absurd hp hn
      · omega
    · exact hend
  · rintro rfl hp
    rcases execFinal_phases he h with ⟨-, hend⟩ | ⟨hn, -⟩
    · exact hend
    · exact absurd hp hn
  · rintro rfl hn
    rcases execFinal_phases he h with ⟨hp, -⟩ | ⟨-, hend⟩
    · exact absurd hp hn
    · exact hend
  · rintro l rfl
    exact execHash_hashEnd h

/-! ## STATUS -/

/-- Settles O26: the encodings are read off, and STATUS is made of 4, 1 and 2 bits, so its fields are checked on the 128
values those bits take. -/
theorem statusFields : Obligations.StatusFields := by
  refine ⟨⟨rfl, rfl, rfl, rfl⟩, ⟨rfl, rfl, rfl, rfl, rfl, rfl⟩, fun s => ?_⟩
  unfold status
  generalize s.errCode.bits = code, s.phase.bits = phase
  cases s.err <;> revert code phase <;> decide

end Sys2Proof.Machine
end

section
/-! SUPPORT. The input view: no step of the block writes it, its owner's change of it, and that a command answers alike on
two views that hold the same bytes where R64 lets the command read. -/

namespace Sys2Proof.Machine

variable {w : Word} {s t : State} {mv : HostMove} {v : Memory} {body : State → Except Raised State}

/-! ## The block never writes the view (R63) -/

theorem moveEffect_keeps_view (h : MoveEffect s mv t) (hmv : ∀ a b, mv ≠ .setView a b) : t.view = s.view := by
  cases h with
  | read | ignored | assertReset | releaseReset => rfl
  | command _ _ hexec => exact (exec_frame hexec).view
  | illegal | locked => exact raiseError_view _ s
  | stored _ _ hu => cases hu <;> rfl
  | setView => exact absurd rfl (hmv _ _)

/-- Settles O27: every effect of a move but the owner's own change keeps the view. -/
theorem blockNeverWritesTheView : Obligations.BlockNeverWritesTheView := by
  intro s t h hmove a
  rcases step_cases h with ⟨-, rfl⟩ | ⟨mv, rest, hp, he⟩
  · rfl
  · have hview : t.view = s.view := 
      moveEffect_keeps_view (s := { s with pending := rest }) he fun a b hmv => hmove a b rest (hmv ▸ hp)
    rw [hview]

/-! ## A change of the view by its owner (R74) -/

theorem isInputByte_iff {a : Word} :
    isInputByte s a = true ↔ ∃ i, i < s.len.toNat ∧ a = s.base + BitVec.ofNat 32 i := by
  simp only [isInputByte, decide_eq_true_eq]
  constructor
  · exact fun h => ⟨_, h, by rw [BitVec.ofNat_toNat, BitVec.setWidth_eq, BitVec.add_comm, BitVec.sub_add_cancel]⟩
  · rintro ⟨i, hi, rfl⟩
    have hsmall : i < 2 ^ 32 := hi.trans s.len.isLt
    rwa [BitVec.add_comm, BitVec.add_sub_cancel, BitVec.toNat_ofNat, Nat.mod_eq_of_lt hsmall]

theorem changeView_race {a : Word} {b : Option Byte} (hh : hashInProgress s = true) (ha : isInputByte s a = true) :
    changeView a b s = .fault .viewRace := by
  simp [changeView, hh, ha]

theorem changeView_set {a : Word} {b : Option Byte} (h : ¬ (hashInProgress s = true ∧ isInputByte s a = true)) :
    changeView a b s = .next { s with view := s.view.set a b } := by
  simp [changeView, h]

/-- Settles O28: the statement's condition is the model's own check for the race, and without it the change is a `set`. -/
theorem viewChangeOutsideHash : Obligations.ViewChangeOutsideHash := by
  intro s a b rest hp
  have hstep : step s = changeView a b { s with pending := rest } := step_of_move hp
  rw [hstep, ← isInputByte_iff, ← and_assoc, ← hashInProgress_iff]
  constructor
  · rintro ⟨hh, ha⟩
    exact changeView_race (s := { s with pending := rest }) hh ha
  · exact fun h => ⟨_, changeView_set (s := { s with pending := rest }) h, Memory.read_set_self _ _ _,
      fun c hc => Memory.read_set_ne _ _ _ _ hc, rfl⟩

/-! ## The same machine on another view -/

/-- `s` with the input view `v`. -/
def onView (v : Memory) (s : State) : State := { s with view := v }

@[simp] theorem onView_view (v : Memory) (s : State) : (onView v s).view = v := rfl
@[simp] theorem onView_phase (v : Memory) (s : State) : (onView v s).phase = s.phase := rfl
@[simp] theorem onView_err (v : Memory) (s : State) : (onView v s).err = s.err := rfl
@[simp] theorem remaining_onView (v : Memory) (s : State) : remaining (onView v s) = remaining s := rfl
@[simp] theorem inputAddr_onView (v : Memory) (s : State) (j : Nat) : inputAddr (onView v s) j = inputAddr s j := rfl

@[simp] theorem foldGroup_onView (k : Word) : foldGroup k (onView v s) = onView v (foldGroup k s) := rfl
@[simp] theorem foldBlock_onView (b : Block) : foldBlock b (onView v s) = onView v (foldBlock b s) := rfl
@[simp] theorem closeBody_onView : closeBody (onView v s) = onView v (closeBody s) := rfl
@[simp] theorem foldTail_onView (k : Word) : foldTail k (onView v s) = onView v (foldTail k s) := rfl
@[simp] theorem finishHash_onView : finishHash (onView v s) = onView v (finishHash s) := rfl
@[simp] theorem startHash_onView : startHash (onView v s) = onView v (startHash s) := rfl

@[simp] theorem raiseError_onView (r : Raised) : raiseError r (onView v s) = onView v (raiseError r s) := by
  cases he : s.err with
  | true => rw [raiseError_of_err r s he, raiseError_of_err r (onView v s) he]
  | false => rw [raiseError_of_no_err r s he, raiseError_of_no_err r (onView v s) he]; rfl

/-! ## Reading the input on two views -/

/-- `v` holds what the view of `s` holds at the next `n` input bytes, those at or past LEN left out (R64). -/
def SameNext (v : Memory) (s : State) (n : Nat) : Prop :=
  ∀ j, j < n → j < remaining s → v.read (inputAddr s j) = s.view.read (inputAddr s j)

/-- The byte `j` places after the current position is the one at offset OFF + `j` (R62). -/
theorem inputAddr_eq_base_add (s : State) (j : Nat) :
    inputAddr s j = s.base + BitVec.ofNat 32 (s.off.toNat + j) := by
  rw [BitVec.ofNat_add, BitVec.ofNat_toNat, BitVec.setWidth_eq, ← BitVec.add_assoc, inputAddr]

theorem sameNext_of_offsets {n : Nat}
    (h : ∀ m, s.off.toNat ≤ m → m < s.off.toNat + n → m < s.len.toNat →
      v.read (s.base + BitVec.ofNat 32 m) = s.view.read (s.base + BitVec.ofNat 32 m)) : SameNext v s n := by
  intro j hj hrem
  have hlen : s.off.toNat + j < s.len.toNat := Nat.add_comm _ j ▸ Nat.add_lt_of_lt_sub hrem
  rw [inputAddr_eq_base_add]
  exact h _ (Nat.le_add_right _ j) (Nat.add_lt_add_left hj _) hlen

theorem readByte_onView {j : Nat} (h : v.read (inputAddr s j) = s.view.read (inputAddr s j)) :
    readByte (onView v s) j = readByte s j := by
  simp [readByte, h]

theorem readGroup_onView {n p : Nat} (h : SameNext v s n) (hp : p + 4 ≤ n) (hr : n ≤ remaining s) :
    readGroup (onView v s) p = readGroup s p := by
  have hbyte : ∀ j, j < p + 4 → readByte (onView v s) j = readByte s j := fun j hj =>
    readByte_onView (h j (by omega) (by omega))
  simp only [readGroup, hbyte p (by omega), hbyte (p + 1) (by omega), hbyte (p + 2) (by omega),
    hbyte (p + 3) (by omega)]

theorem readBlock_onView (h : SameNext v s 16) (hr : 16 ≤ remaining s) : readBlock (onView v s) = readBlock s := by
  have hgroup : ∀ p, p + 4 ≤ 16 → readGroup (onView v s) p = readGroup s p := fun p hp => readGroup_onView h hp hr
  simp only [readBlock, hgroup 0 (by omega), hgroup 4 (by omega), hgroup 8 (by omega), hgroup 12 (by omega)]

theorem readTail_onView (h : SameNext v s (remaining s)) :
    readTail (onView v s) (remaining s) = readTail s (remaining s) := by
  have hbyte : ∀ j, readTailByte (onView v s) (remaining s) j = readTailByte s (remaining s) j := fun j => by
    by_cases hj : j < remaining s
    · rw [readTailByte_of_lt hj, readTailByte_of_lt hj, readByte_onView (h j hj hj)]
    · rw [readTailByte_of_ge (Nat.le_of_not_lt hj), readTailByte_of_ge (Nat.le_of_not_lt hj)]
  simp only [readTail, hbyte]

/-! ## The bodies on two views -/

theorem chunkBody_onView (h : SameNext v s 4) : chunkBody w (onView v s) = (chunkBody w s).map (onView v) := by
  unfold chunkBody
  by_cases hp : s.phase = .body
  · by_cases hr : remaining s < 4
    · simp [hp, hr, Except.map]
    · have hread := readGroup_onView (p := 0) h (by omega) (by omega)
      cases hg : readGroup s 0 <;> simp [hp, hr, hread, hg, Except.map]
  · simp [hp, Except.map]

theorem lane4Body_onView (h : SameNext v s 16) : lane4Body w (onView v s) = (lane4Body w s).map (onView v) := by
  unfold lane4Body
  by_cases hp : s.phase = .body
  · by_cases hr : remaining s < 16
    · simp [hp, hr, Except.map]
    · have hread := readBlock_onView h (by omega)
      cases hg : readBlock s <;> simp [hp, hr, hread, hg, Except.map]
  · simp [hp, Except.map]

theorem tailBody_onView (h : SameNext v s (remaining s)) :
    tailBody w (onView v s) = (tailBody w s).map (onView v) := by
  unfold tailBody
  by_cases hp : s.phase = .body
  · by_cases hr : 4 ≤ remaining s
    · simp [hp, hr, Except.map]
    · by_cases h0 : remaining s = 0
      · simp [hp, h0, Except.map]
      · have hread := readTail_onView h
        cases hg : readTail s (remaining s) <;> simp [hp, hr, h0, hread, hg, Except.map]
  · simp [hp, Except.map]

theorem finalBody_onView : finalBody w (onView v s) = (finalBody w s).map (onView v) := by
  unfold finalBody
  by_cases hp : s.phase = .tailed <;> simp [hp, Except.map]

/-! ## Running a body on two views -/

/-- The state a sequence of sub-steps stands in, with the view `v`. -/
def standingOnView (v : Memory) : Except State State → Except State State
  | .ok t => .ok (onView v t)
  | .error t => .error (onView v t)

theorem endState_standingOnView (x : Except State State) : endState (standingOnView v x) = onView v (endState x) := by
  cases x <;> rfl

theorem perform_onView (h : body (onView v s) = (body s).map (onView v)) :
    perform body (onView v s) = standingOnView v (perform body s) := by
  unfold perform
  rw [h]
  cases body s with
  | ok t => rfl
  | error r => simp [Except.map, standingOnView]

theorem runUnlessErr_onView (h : body (onView v s) = (body s).map (onView v)) :
    runUnlessErr body (onView v s) = withView v (runUnlessErr body s) := by
  unfold runUnlessErr
  rw [perform_onView h, endState_standingOnView, onView_err]
  split <;> rfl

/-! ## HASH on two views -/

/-- `v` holds what the view of `s` holds at every one of the LEN input bytes. -/
def SameInput (v : Memory) (s : State) : Prop :=
  ∀ n, n < s.len.toNat → v.read (s.base + BitVec.ofNat 32 n) = s.view.read (s.base + BitVec.ofNat 32 n)

theorem SameInput.sameNext (h : SameInput v s) (n : Nat) : SameNext v s n :=
  sameNext_of_offsets fun m _ _ hlen => h m hlen

/-- No body and no error touches the view, BASE or LEN. -/
theorem sameInput_keptByBodies (v : Memory) : KeptByBodies True (SameInput v) where
  group _ _ h _ _ := h
  block _ _ _ h _ _ := h
  close _ h _ _ := h
  tail _ _ h _ := h
  finish _ h _ := h
  error _ _ _ h _ := by simpa [SameInput] using h

/-- From states whose input `v` holds as well, `f` does on `v` what it does on their own view, and goes on in such a
state again. -/
structure RunsAlike (v : Memory) (f : State → Except State State) : Prop where
  same : ∀ s, SameInput v s → f (onView v s) = standingOnView v (f s)
  keeps : ∀ s t, SameInput v s → f s = .ok t → SameInput v t

theorem runsAlike_ok : RunsAlike v .ok where
  same _ _ := rfl
  keeps s t hs h := by cases h; exact hs

theorem RunsAlike.bind {f g : State → Except State State} (hf : RunsAlike v f) (hg : RunsAlike v g) :
    RunsAlike v (fun s => f s >>= g) where
  same s hs := by
    simp only [hf.same s hs]
    cases hfs : f s with
    | ok t => exact hg.same t (hf.keeps s t hs hfs)
    | error t => rfl
  keeps s t hs h := by
    cases hfs : f s with
    | ok u => rw [hfs] at h; exact hg.keeps u t (hf.keeps s u hs hfs) h
    | error u => rw [hfs] at h; cases h

theorem runsAlike_perform (hsame : ∀ s, SameInput v s → body (onView v s) = (body s).map (onView v))
    (hkeeps : ∀ s t, SameInput v s → body s = .ok t → SameInput v t) : RunsAlike v (perform body) where
  same s hs := perform_onView (hsame s hs)
  keeps s t hs h := hkeeps s t hs (perform_ok.mp h)

/-- A round of the loop of R161 is a run of its body followed by the rounds that are left. -/
theorem whileRemaining_succ {size fuel : Nat} : whileRemaining size body (fuel + 1) s =
    if size ≤ remaining s then perform body s >>= whileRemaining size body fuel else .ok s := by
  simp only [whileRemaining]
  split
  · cases perform body s <;> rfl
  · rfl

theorem RunsAlike.whileRemaining {size : Nat} (hbody : RunsAlike v (perform body)) (fuel : Nat) :
    RunsAlike v (whileRemaining size body fuel) := by
  induction fuel with
  | zero => exact runsAlike_ok
  | succ fuel ih =>
    have hround := hbody.bind ih
    constructor
    · intro s hs
      rw [whileRemaining_succ, whileRemaining_succ, remaining_onView]
      split
      · exact hround.same s hs
      · rfl
    · intro s t hs h
      rw [whileRemaining_succ] at h
      split at h
      · exact hround.keeps s t hs h
      · cases h; exact hs

theorem RunsAlike.consumeAll {size : Nat} (hbody : RunsAlike v (perform body)) : RunsAlike v (consumeAll size body) where
  same s hs := (hbody.whileRemaining _).same s hs
  keeps s t hs h := (hbody.whileRemaining _).keeps s t hs h

theorem runsAlike_laneSteps (v : Memory) (l : Bool) (w : Word) : RunsAlike v (laneSteps l w) := by
  cases l with
  | false => exact runsAlike_ok
  | true =>
    have hlane : RunsAlike v (perform (lane4Body w)) := runsAlike_perform
      (fun _ hs => lane4Body_onView (hs.sameNext 16)) (fun _ _ hs => (sameInput_keptByBodies v).lane4Body hs trivial)
    exact hlane.consumeAll

theorem runsAlike_hashSteps (v : Memory) (l : Bool) (w : Word) : RunsAlike v (hashSteps l w) := by
  have hkept := sameInput_keptByBodies v
  have hchunk : RunsAlike v (perform (chunkBody w)) := runsAlike_perform
    (fun _ hs => chunkBody_onView (hs.sameNext 4)) (fun _ _ hs => hkept.chunkBody hs)
  have htail : RunsAlike v (perform (tailBody w)) := runsAlike_perform
    (fun _ hs => tailBody_onView (hs.sameNext _)) (fun _ _ hs => hkept.tailBody hs)
  have hfinal : RunsAlike v (perform (finalBody w)) := runsAlike_perform
    (fun _ _ => finalBody_onView) (fun _ _ hs => hkept.finalBody hs)
  exact (runsAlike_laneSteps v l w).bind (hchunk.consumeAll.bind (htail.bind hfinal))

theorem execHash_onView (l : Bool) (h : SameInput v s) : execHash l (onView v s) = withView v (execHash l s) := by
  have hstart : SameInput v (startHash s) := h
  simp only [execHash, startHash_onView, (runsAlike_hashSteps v l _).same _ hstart, endState_standingOnView]
  rfl

/-! ## Every command on two views -/

/-- Settles O29: the single commands read within their offsets, and HASH by induction over its loops. -/
theorem commandsReadOnlyTheInput : Obligations.CommandsReadOnlyTheInput := by
  intro i s v h
  cases i with
  | nop | init => rfl
  | chunk => exact runUnlessErr_onView (chunkBody_onView (sameNext_of_offsets fun m h1 h2 h3 => h m ⟨h1, h2, h3⟩))
  | lane4 => exact runUnlessErr_onView (lane4Body_onView (sameNext_of_offsets fun m h1 h2 h3 => h m ⟨h1, h2, h3⟩))
  | tail => exact runUnlessErr_onView (tailBody_onView (sameNext_of_offsets fun m h1 _ h3 => h m ⟨h1, h3⟩))
  | final => exact runUnlessErr_onView finalBody_onView
  | hash l => exact execHash_onView l h

end Sys2Proof.Machine
end

section
/-! SUPPORT. Decoding and encoding: the three fields make up the word, the opcode map inverts the command words' fields, and
from these the equation of the decoder and the words it rejects. -/

namespace Sys2Proof.Machine

variable {hasLanes l : Bool} {op : BitVec 4} {w v : Word} {i : Instr}

/-! ## The fields of a word (R81) -/

theorem fieldOp_toNat (w : Word) : (fieldOp w).toNat = w.toNat % 16 := by
  simp [fieldOp, BitVec.extractLsb'_toNat]

theorem fieldL_eq (w : Word) : fieldL w = decide (w.toNat / 16 % 2 = 1) := by
  rw [fieldL, ← BitVec.testBit_toNat, Nat.testBit_eq_decide_div_mod_eq]

theorem fieldRsv_toNat (w : Word) : (fieldRsv w).toNat = w.toNat / 32 := by
  have hw := w.isLt
  simp only [fieldRsv, BitVec.extractLsb'_toNat, Nat.shiftRight_eq_div_pow]
  omega

/-- RSV, L and OP cover all 32 bits, so words with the same fields are the same word. -/
theorem word_ext (hrsv : fieldRsv w = fieldRsv v) (hl : fieldL w = fieldL v) (hop : fieldOp w = fieldOp v) : w = v := by
  have hrsv := congrArg BitVec.toNat hrsv
  have hop := congrArg BitVec.toNat hop
  rw [fieldRsv_toNat, fieldRsv_toNat] at hrsv
  rw [fieldL_eq, fieldL_eq, decide_eq_decide] at hl
  rw [fieldOp_toNat, fieldOp_toNat] at hop
  exact BitVec.eq_of_toNat_eq (by omega)

/-- The fields of every command word (R81, R83). -/
theorem commandWord (i : Instr) : Laws.CommandWord.Statement i := by
  cases i with
  | nop => exact Laws.CommandWord.nop
  | init => exact Laws.CommandWord.init
  | chunk => exact Laws.CommandWord.chunk
  | lane4 => exact Laws.CommandWord.lane4
  | tail => exact Laws.CommandWord.tail
  | final => exact Laws.CommandWord.final
  | hash l => exact Laws.CommandWord.hash l

/-! ## The opcode map (R83) -/

theorem opcodeMap_encode (i : Instr) : opcodeMap (fieldOp (encode i)) (fieldL (encode i)) = .ok i := by
  cases i with
  | hash l => cases l <;> decide
  | _ => decide

/-- The only command an OP and an L bit can name is the one whose word has them. -/
theorem fields_of_opcodeMap (h : opcodeMap op l = .ok i) : fieldOp (encode i) = op ∧ fieldL (encode i) = l := by
  unfold opcodeMap at h
  split_ifs at h with hhash hundef hlane hnop hinit hchunk hlane4 htail <;> cases h
  · subst op; cases l <;> decide
  all_goals obtain rfl := Bool.eq_false_of_not_eq_true hlane
  · subst op; decide
  · subst op; decide
  · subst op; decide
  · subst op; decide
  · subst op; decide
  · obtain rfl : op = 5#4 := by bv_omega
    decide

theorem encode_injective {j : Instr} (h : encode i = encode j) : i = j := by
  have hi := opcodeMap_encode i
  rw [h, opcodeMap_encode j] at hi
  injection hi with hi
  exact hi.symm

/-! ## The decoder (R84) -/

theorem decode_ok_iff : decode hasLanes w = .ok i ↔
    fieldRsv w = 0#27 ∧ opcodeMap (fieldOp w) (fieldL w) = .ok i ∧ i.wellFormed hasLanes = true := by
  unfold decode
  split
  case isTrue hrsv => simp [hrsv]
  case isFalse hrsv =>
  rw [not_not] at hrsv
  simp only [hrsv, true_and]
  split
  case h_1 e he => simp [he]
  case h_2 j hj =>
  split
  case isTrue hwf => exact ⟨fun h => by cases h; exact ⟨hj, hwf⟩, fun ⟨h, _⟩ => hj.symm.trans h⟩
  case isFalse hwf =>
  simp only [reduceCtorEq, false_iff]
  rintro ⟨h, hi⟩
  cases hj.symm.trans h
  exact hwf hi

/-- Settles O5: the opcode map and the command words agree on OP and L, RSV is 0 in every command word, and the three fields
make up the word. -/
theorem wordDecodesIffCommandWord : Obligations.WordDecodesIffCommandWord := by
  intro hasLanes w i
  obtain ⟨hzero, -, -⟩ := commandWord i
  rw [decode_ok_iff]
  constructor
  · rintro ⟨hrsv, hmap, hwf⟩
    obtain ⟨hop, hl⟩ := fields_of_opcodeMap hmap
    exact ⟨hwf, word_ext (hzero.trans hrsv.symm) hl hop⟩
  · rintro ⟨hwf, rfl⟩
    exact ⟨hzero, opcodeMap_encode i, hwf⟩

/-- Settles O6: each word is the command word of a command that exists with the lane mixer. -/
theorem commandWordsDecode : Obligations.CommandWordsDecode :=
  have hdecode (i : Instr) (hi : i.wellFormed true = true) : decode true (encode i) = .ok i :=
    (wordDecodesIffCommandWord true _ i).mpr ⟨hi, rfl⟩
  ⟨hdecode .nop rfl, hdecode .init rfl, hdecode .chunk rfl, hdecode .lane4 rfl, hdecode .tail rfl, hdecode .final rfl,
    hdecode (.hash false) rfl, hdecode (.hash true) rfl⟩

/-! ## The illegal words (R85) -/

theorem wellFormed_eq_false_iff :
    i.wellFormed hasLanes = false ↔ hasLanes = false ∧ (i = .lane4 ∨ i = .hash true) := by
  cases i with
  | hash l => cases l <;> simp [Instr.wellFormed]
  | _ => simp [Instr.wellFormed]

/-- A command's word is illegal only as R85 (d) says: the command does not exist. -/
theorem illegalWord_encode_iff : IllegalWord hasLanes (encode i) ↔ i.wellFormed hasLanes = false := by
  obtain ⟨hrsv, hop, hl⟩ := commandWord i
  rw [wellFormed_eq_false_iff]
  constructor
  · rintro (h | h | ⟨h, h5⟩ | ⟨h, hw⟩)
    · exact absurd hrsv h
    · omega
    · rw [hl.mp h] at h5
      exact absurd h5 (by decide)
    · exact ⟨h, hw.imp (encode_injective (j := .lane4)) (encode_injective (j := .hash true))⟩
  · rintro ⟨h, rfl | rfl⟩
    · exact .inr (.inr (.inr ⟨h, .inl rfl⟩))
    · exact .inr (.inr (.inr ⟨h, .inr rfl⟩))

/-- The words that R85 leaves legal are command words: OP 0 to 6 with L = 0, and HASH with L = 1. -/
theorem exists_encode_of_not_illegalWord (h : ¬ IllegalWord hasLanes w) : ∃ i, encode i = w := by
  simp only [IllegalWord, not_or, not_and, not_not, not_le] at h
  obtain ⟨hrsv, hop, hl, -⟩ := h
  have hrsv := fieldRsv_toNat w ▸ congrArg BitVec.toNat hrsv
  rw [fieldL_eq, decide_eq_true_eq] at hl
  rw [fieldOp_toNat] at hop hl
  have hof (i : Instr) (hi : w.toNat = (encode i).toNat) : ∃ i, encode i = w := ⟨i, (BitVec.eq_of_toNat_eq hi).symm⟩
  have hcases : w.toNat = 0 ∨ w.toNat = 1 ∨ w.toNat = 2 ∨ w.toNat = 3 ∨ w.toNat = 4 ∨ w.toNat = 5 ∨ w.toNat = 6 ∨
      w.toNat = 0x16 := by
    rw [BitVec.toNat_ofNat] at hrsv
    omega
  rcases hcases with h | h | h | h | h | h | h | h
  · exact hof .nop h
  · exact hof .init h
  · exact hof .chunk h
  · exact hof .lane4 h
  · exact hof .tail h
  · exact hof .final h
  · exact hof (.hash false) h
  · exact hof (.hash true) h

/-- R85: the words listed are exactly those the decoder rejects. -/
theorem illegalWord_iff_decode_error : IllegalWord hasLanes w ↔ ∃ e, decode hasLanes w = .error e := by
  constructor
  · intro h
    cases hd : decode hasLanes w with
    | error e => exact ⟨e, rfl⟩
    | ok i =>
      obtain ⟨hwf, rfl⟩ := (wordDecodesIffCommandWord hasLanes w i).mp hd
      exact absurd (hwf.symm.trans (illegalWord_encode_iff.mp h)) nofun
  · rintro ⟨e, he⟩
    by_contra h
    obtain ⟨i, rfl⟩ := exists_encode_of_not_illegalWord h
    have hwf : i.wellFormed hasLanes = true := by simpa [illegalWord_encode_iff] using h
    exact absurd (he.symm.trans ((wordDecodesIffCommandWord hasLanes _ i).mpr ⟨hwf, rfl⟩)) nofun

/-- A write of an illegal word to CMD records ILLEGAL_CMD and does nothing else (R85, R181). -/
theorem step_illegalWrite {s : State} {rest : List HostMove} (hr : s.inReset = false)
    (hp : s.pending = cmdWrite s w :: rest) (hw : IllegalWord s.cfg.hasLanes w) :
    step s = .next (raiseError ⟨.illegalCmd, w, 0#32⟩ { s with pending := rest }) := by
  obtain ⟨e, he⟩ := illegalWord_iff_decode_error.mp hw
  rw [step_cmdWrite hr hp]
  exact issueWord_of_illegal (s := { s with pending := rest }) he

/-- Settles O7: the decoder rejects exactly R85's words, and the error it raises is recorded unless one already is. -/
theorem illegalWordRaisesIllegalCmd : Obligations.IllegalWordRaisesIllegalCmd := by
  constructor
  · intro hasLanes w
    rw [illegalWord_iff_decode_error]
    cases decode hasLanes w <;> simp
  · intro s w rest hr hp hw
    rw [step_illegalWrite hr hp hw]
    rfl

end Sys2Proof.Machine
end

section
/-! SUPPORT. What a command other than INIT and HASH can do to the state, said once, and from it the registers each of them
leaves unchanged. -/

namespace Sys2Proof.Machine

variable {s t : State} {i : Instr}

/-- The effects of the commands other than INIT and HASH: nothing, an error recorded, or what the body writes (R82, R186). -/
inductive SingleEffect (s : State) : Instr → State → Prop
  | nop : SingleEffect s .nop s
  /-- The command is ignored, an error being recorded already (R188). -/
  | ignored {i : Instr} (he : s.err = true) : SingleEffect s i s
  /-- The command fails and its error is recorded (R187). -/
  | recorded {i : Instr} (he : s.err = false) (r : Raised) : SingleEffect s i (raiseError r s)
  | chunk (k : Word) : SingleEffect s .chunk (foldGroup k s)
  | lane4 (b : Block) : SingleEffect s .lane4 (foldBlock b s)
  /-- TAIL with no byte left. -/
  | close : SingleEffect s .tail (closeBody s)
  | tail (k : Word) : SingleEffect s .tail (foldTail k s)
  | final : SingleEffect s .final (finishHash s)

/-- A command that minds ERR is ignored, does what its body does, or records its body's error. -/
theorem singleEffect_of_runUnlessErr {body : State → Except Raised State} (h : runUnlessErr body s = .next t)
    (hok : ∀ u, body s = .ok u → SingleEffect s i u) : SingleEffect s i t := by
  rcases runUnlessErr_cases body s with ⟨he, hr⟩ | ⟨-, u, hb, hr⟩ | ⟨he, r, -, hr⟩ <;> rw [hr] at h <;> cases h
  · exact .ignored he
  · exact hok t hb
  · exact .recorded he r

theorem singleEffect_of_exec (hinit : i ≠ .init) (hhash : ∀ l, i ≠ .hash l) (h : exec i s = .next t) :
    SingleEffect s i t := by
  cases i with
  | nop => cases h; exact .nop
  | init => exact absurd rfl hinit
  | hash l => exact absurd rfl (hhash l)
  | chunk =>
    refine singleEffect_of_runUnlessErr h fun u hb => ?_
    obtain ⟨-, -, bytes, -, rfl⟩ := chunkBody_ok hb
    exact .chunk _
  | lane4 =>
    refine singleEffect_of_runUnlessErr h fun u hb => ?_
    obtain ⟨-, -, bytes, -, rfl⟩ := lane4Body_ok hb
    exact .lane4 _
  | tail =>
    refine singleEffect_of_runUnlessErr h fun u hb => ?_
    obtain ⟨-, ⟨-, rfl⟩ | ⟨-, -, bytes, -, rfl⟩⟩ := tailBody_ok hb
    · exact .close
    · exact .tail _
  | final =>
    refine singleEffect_of_runUnlessErr h fun u hb => ?_
    obtain ⟨-, rfl⟩ := finalBody_ok hb
    exact .final

/-! ## What each effect leaves unchanged (R82) -/

theorem SingleEffect.keeps_phase_and_result (h : SingleEffect s i t) (hi : i = .chunk ∨ i = .lane4) :
    t.phase = s.phase ∧ t.result = s.result := by
  cases h <;> simp at hi ⊢

theorem SingleEffect.tail_keeps_result (h : SingleEffect s .tail t) : t.result = s.result := by
  cases h <;> simp

theorem SingleEffect.final_keeps_group (h : SingleEffect s .final t) : t.off = s.off ∧ t.k = s.k ∧ t.m = s.m := by
  cases h <;> simp

theorem SingleEffect.keeps_lanes (h : SingleEffect s i t) (hi : i ≠ .lane4) :
    t.lane0 = s.lane0 ∧ t.lane1 = s.lane1 ∧ t.lane2 = s.lane2 ∧ t.lane3 = s.lane3 := by
  cases h <;> simp at hi ⊢

/-- No body writes the error record; a recorded error would have set ERR (R186). -/
theorem SingleEffect.keeps_error_record (h : SingleEffect s i t) (herr : t.err = s.err) :
    t.errCode = s.errCode ∧ t.errInfo = s.errInfo ∧ t.errAddr = s.errAddr := by
  cases h with
  | recorded he r => simp [he] at herr
  | _ => exact ⟨rfl, rfl, rfl⟩

/-- Settles O18: the frame of every command, and for the single commands what each effect keeps. -/
theorem commandsWriteOnlyTheirOperands : Obligations.CommandsWriteOnlyTheirOperands := by
  intro i s t h
  have hframe := exec_frame h
  have heffect (hinit : i ≠ .init) (hhash : ∀ l, i ≠ .hash l) : SingleEffect s i t := singleEffect_of_exec hinit hhash h
  refine ⟨⟨hframe.seed, hframe.len, hframe.base, hframe.cfg, hframe.inReset, hframe.pending, hframe.readData,
    fun a => by rw [hframe.view]⟩, ?_, ?_, ?_, ?_, ?_, fun hinit hhash => (heffect hinit hhash).keeps_error_record⟩
  · rintro rfl
    cases h
    rfl
  · rintro (rfl | rfl)
    · exact (heffect nofun nofun).keeps_phase_and_result (.inl rfl)
    · exact (heffect nofun nofun).keeps_phase_and_result (.inr rfl)
  · rintro rfl
    exact (heffect nofun nofun).tail_keeps_result
  · rintro rfl
    exact (heffect nofun nofun).final_keeps_group
  · rintro (rfl | rfl | rfl) <;> exact (heffect nofun nofun).keeps_lanes nofun

end Sys2Proof.Machine
end

section
/-! SUPPORT. The control commands NOP and INIT (spec/40_control.md): the one word of a command that exists on every MHM32,
and STATUS while no error is recorded. -/

namespace Sys2Proof.Machine

variable {i : Instr} {s : State}

/-- A command that does not need the lane mixer is decoded from its command word and from no other (R83, R84). -/
theorem decode_iff_eq_encode (hi : ∀ hasLanes, i.wellFormed hasLanes = true) (hasLanes : Bool) (w : Word) :
    decode hasLanes w = .ok i ↔ w = encode i := by
  rw [wordDecodesIffCommandWord hasLanes w i, hi, eq_self, true_and, eq_comm]

/-- While no error is recorded, STATUS is PHASE alone (R23). -/
theorem status_of_no_error (hcode : s.errCode = .none) (herr : s.err = false) :
    status s = s.phase.bits.setWidth 32 := by
  simp [status, hcode, herr, ErrCode.bits]

theorem exec_nop (s : State) : exec .nop s = .next s := rfl

theorem exec_init (s : State) : exec .init s = .next (startHash s) := rfl

/-- Settles O12: NOP's effect is none, and its command word is 0. -/
theorem nopChangesNothing : Obligations.NopChangesNothing :=
  ⟨exec_nop, decode_iff_eq_encode fun _ => rfl⟩

theorem status_startHash (s : State) : status (startHash s) = 0x00000001#32 := by
  rw [status_of_no_error (startHash_errCode s) (startHash_err s), startHash_phase]
  rfl

/-- Settles O13: INIT's effect is `startHash`, which leaves PHASE BODY and no error recorded. -/
theorem initStartsHash : Obligations.InitStartsHash := by
  refine ⟨decode_iff_eq_encode fun _ => rfl, exec_init, fun s t h => ?_⟩
  rw [exec_init] at h
  cases h
  exact status_startHash s

end Sys2Proof.Machine
end

section
/-! SUPPORT. The functions of the chunk processor (spec/41_chunk.md R110 to R112): composition is concatenation of the bytes,
and the mixing step and the fold are made of invertible steps, namely multiplication by an odd constant, rotation, XOR and
addition. -/

namespace Sys2Proof.Machine

/-! ## Composition (R110) -/

/-- The shifted bytes of a group overlap nowhere, so their OR is their concatenation, `b3` highest. -/
theorem le32_eq_append (b0 b1 b2 b3 : Byte) : le32 b0 b1 b2 b3 = b3 ++ (b2 ++ (b1 ++ b0)) := by
  ext i hi
  grind [le32]

/-- Settles O30: byte j of the concatenation is found by dropping the bytes above it, then those below it. -/
theorem groupIsLittleEndian : Obligations.GroupIsLittleEndian := by
  intro b0 b1 b2 b3
  have hdrop3 {start : Nat} (h : start + 8 ≤ 24) :
      (le32 b0 b1 b2 b3).extractLsb' start 8 = (b2 ++ (b1 ++ b0)).extractLsb' start 8 := by
    rw [le32_eq_append]
    exact BitVec.extractLsb'_append_eq_of_add_le h
  have hdrop2 {start : Nat} (h : start + 8 ≤ 16) :
      (le32 b0 b1 b2 b3).extractLsb' start 8 = (b1 ++ b0).extractLsb' start 8 :=
    (hdrop3 (by omega)).trans (BitVec.extractLsb'_append_eq_of_add_le h)
  refine ⟨?_, ?_, ?_, ?_⟩
  · exact (hdrop2 (by decide)).trans BitVec.extractLsb'_append_eq_right
  · exact (hdrop2 (by decide)).trans BitVec.extractLsb'_append_eq_left
  · exact (hdrop3 (by decide)).trans BitVec.extractLsb'_append_eq_left
  · rw [le32_eq_append]
    exact BitVec.extractLsb'_append_eq_left

/-! ## Invertible steps -/

theorem rotl_eq_rotateLeft {r : Nat} (hr : r < 32) (x : Word) : rotl x r = x.rotateLeft r :=
  (BitVec.rotateLeft_eq_rotateLeftAux_of_lt hr).symm

theorem getElem_rotl {x : Word} {r i : Nat} (hr : r < 32) (hi : i < 32) :
    (rotl x r)[i] = if h : i < r then x[32 - r + i] else x[i - r] := by
  simp only [rotl_eq_rotateLeft hr, BitVec.getElem_rotateLeft, Nat.mod_eq_of_lt hr]

/-- Rotating on by the rest of the 32 places gives the word back. -/
theorem rotl_rotl_sub (x : Word) {r : Nat} (h0 : 0 < r) (hr : r < 32) : rotl (rotl x r) (32 - r) = x := by
  ext i hi
  rw [getElem_rotl (by omega) hi]
  split
  · rw [getElem_rotl hr, dif_neg (by omega)]
    congr 1
    omega
  · rw [getElem_rotl hr, dif_pos (by omega)]
    congr 1
    omega

theorem rotl_bijective {r : Nat} (h0 : 0 < r) (hr : r < 32) : Function.Bijective (fun x => rotl x r) := by
  refine Function.bijective_iff_has_inverse.mpr
    ⟨fun x => rotl x (32 - r), fun x => rotl_rotl_sub x h0 hr, fun x => ?_⟩
  have hback := rotl_rotl_sub x (r := 32 - r) (by omega) (by omega)
  rwa [Nat.sub_sub_self (by omega)] at hback

/-- A constant that has an inverse mod 2^32 (every odd one has) multiplies bijectively. -/
theorem mul_bijective_of_inverse {c d : Word} (h : c * d = 1#32) : Function.Bijective (fun x : Word => x * c) :=
  IsUnit.isUnit_iff_mulRight_bijective.mp (.of_mul_eq_one d h)

theorem xor_bijective (k : Word) : Function.Bijective (fun x : Word => x ^^^ k) :=
  Function.Involutive.bijective fun x => by simp

/-! ## The mixing step and the fold (R114) -/

theorem mixK_zero : mixK 0#32 = 0#32 := by decide

theorem foldH_eq_of_xor_eq {h k h' k' : Word} (hx : h ^^^ k = h' ^^^ k') : foldH h k = foldH h' k' := by
  rw [foldH, foldH, hx]

theorem mixK_bijective : Function.Bijective mixK := by
  have hc1 := mul_bijective_of_inverse (c := c1) (d := 0xdee13bb1#32) (by decide)
  have hrot := rotl_bijective (r := 15) (by decide) (by decide)
  have hc2 := mul_bijective_of_inverse (c := c2) (d := 0x56ed309b#32) (by decide)
  exact hc2.comp (hrot.comp hc1)

theorem foldH_bijective (k : Word) : Function.Bijective (fun h => foldH h k) := by
  have hrot := rotl_bijective (r := 13) (by decide) (by decide)
  have hmul := mul_bijective_of_inverse (c := combineMul) (d := 0xcccccccd#32) (by decide)
  have hadd := AddGroup.addRight_bijective combineAdd
  exact hadd.comp (hmul.comp (hrot.comp (xor_bijective k)))

/-- Settles O31: `mixK` and `foldH` are compositions of invertible steps, and `foldH` begins with the XOR. -/
theorem chunkFunctionProperties : Obligations.ChunkFunctionProperties :=
  ⟨mixK_zero, fun _ _ _ _ => foldH_eq_of_xor_eq, mixK_bijective, foldH_bijective⟩

end Sys2Proof.Machine
end

section
/-! SUPPORT. The CHUNK command (spec/41_chunk.md R113): only one byte is the first unreadable one, what CHUNK's body answers in
each of its cases, and what a command that is ignored while an error is recorded does when none is. -/

namespace Sys2Proof.Machine

variable {s t : State} {w a b : Word} {n : Nat} {bytes : Nat → Byte} {r : Raised}
  {body : State → Except Raised State}

/-! ## The first unreadable byte (R184) -/

theorem FirstUnreadable.unique (ha : FirstUnreadable s n a) (hb : FirstUnreadable s n b) : a = b := by
  obtain ⟨i, -, hbelowi, hi, rfl⟩ := ha
  obtain ⟨j, -, hbelowj, hj, rfl⟩ := hb
  rcases lt_trichotomy i j with hlt | rfl | hlt
  · obtain ⟨x, hx⟩ := hbelowj i hlt
    exact absurd (hi.symm.trans hx) nofun
  · rfl
  · obtain ⟨x, hx⟩ := hbelowi j hlt
    exact absurd (hj.symm.trans hx) nofun

theorem FirstUnreadable.not_bytesAt (ha : FirstUnreadable s n a) : ¬ BytesAt s 0 n bytes := by
  intro h
  obtain ⟨j, hlt, -, hj, -⟩ := ha
  have hread := h j hlt
  simp [hj] at hread

theorem bytesAt_zero_iff : BytesAt s 0 n bytes ↔
    ∀ j, j < n → s.view.read (s.base + s.off + BitVec.ofNat 32 j) = some (bytes j) := by
  simp [BytesAt, inputAddr]

/-! ## Running a body while no error is recorded -/

theorem runUnlessErr_of_ok (he : s.err = false) (h : body s = .ok t) : runUnlessErr body s = .next t := by
  simp [runUnlessErr, he, perform, h, endState]

theorem runUnlessErr_of_error (he : s.err = false) (h : body s = .error r) : runUnlessErr body s =
    .next { s with err := true, errCode := r.code, errInfo := r.info, errAddr := r.addr } := by
  simp [runUnlessErr, he, perform, h, endState, raiseError_of_no_err]

/-! ## CHUNK, case by case -/

theorem chunkBody_of_not_body (hp : s.phase ≠ .body) : chunkBody w s = .error ⟨.sequence, w, 0#32⟩ := by
  simp [chunkBody, hp]

theorem chunkBody_of_short (hp : s.phase = .body) (hr : remaining s < 4) :
    chunkBody w s = .error ⟨.bounds, w, 0#32⟩ := by
  simp [chunkBody, hp, hr]

theorem chunkBody_of_firstUnreadable (hp : s.phase = .body) (hr : 4 ≤ remaining s) (ha : FirstUnreadable s 4 a) :
    chunkBody w s = .error ⟨.viewFault, w, a⟩ := by
  rcases chunkBody_cases w s with ⟨hn, -⟩ | ⟨-, hlt, -⟩ | ⟨-, -, b, hb, h⟩ | ⟨-, -, bytes, hbytes, -⟩
  · exact absurd hp hn
  · omega
  · rw [h, hb.unique ha]
  · exact absurd hbytes ha.not_bytesAt

theorem chunkBody_of_bytes (hp : s.phase = .body) (hr : 4 ≤ remaining s) (h : BytesAt s 0 4 bytes) :
    chunkBody w s = .ok (foldGroup (le32 (bytes 0) (bytes 1) (bytes 2) (bytes 3)) s) := by
  simp [chunkBody, hp, hr, readGroup_of_bytes h]

theorem exec_chunk (s : State) : exec .chunk s = runUnlessErr (chunkBody 0x00000002#32) s := rfl

/-- Settles O14: CHUNK's four cases are those of its body, run while no error is recorded. -/
theorem chunkFoldsOneGroup : Obligations.ChunkFoldsOneGroup := by
  refine ⟨decode_iff_eq_encode fun _ => rfl, fun s he => ?_⟩
  simp only [exec_chunk, ← four_le_remaining_iff, ← bytesAt_zero_iff]
  refine ⟨fun hp => ?_, fun hp hlt => ?_, fun hp hr a ha => ?_, fun hp hr bytes hbytes => ?_⟩
  · exact runUnlessErr_of_error he (chunkBody_of_not_body hp)
  · have hr : remaining s < 4 := by
      rw [← not_le, four_le_remaining_iff]
      omega
    exact runUnlessErr_of_error he (chunkBody_of_short hp hr)
  · exact runUnlessErr_of_error he (chunkBody_of_firstUnreadable hp hr ha)
  · exact runUnlessErr_of_ok he (chunkBody_of_bytes hp hr hbytes)

end Sys2Proof.Machine
end

section
/-! SUPPORT. The TAIL command (spec/42_tail.md R130 to R132): the tail composition is a group padded with zero bytes, and what
TAIL does in each of its cases. -/

namespace Sys2Proof.Machine

variable {s t : State} {w a : Word} {bytes : Nat → Byte}

/-! ## Composition (R130) -/

theorem tailK_three (t0 t1 t2 : Byte) : tailK 3 t0 t1 t2 = le32 t0 t1 t2 0#8 := by
  simp [tailK, le32, BitVec.or_comm, BitVec.or_assoc]

/-- A tail of one or two bytes is the tail of three whose missing bytes are 0. -/
theorem tailK_two (t0 t1 t2 : Byte) : tailK 2 t0 t1 t2 = tailK 3 t0 t1 0#8 := by simp [tailK]

theorem tailK_one (t0 t1 t2 : Byte) : tailK 1 t0 t1 t2 = tailK 3 t0 0#8 0#8 := by simp [tailK]

/-- A byte placed from bit `n` on has no bit from `n + 8` on. -/
theorem setWidth_shiftLeft_ushiftRight_eq_zero (b : Byte) {n m : Nat} (h : n + 8 ≤ m) :
    (b.setWidth 32 <<< n) >>> m = 0#32 := by
  ext i hi
  grind

theorem tailK_ushiftRight_eq_zero (t0 t1 t2 : Byte) {rem : Nat} (h : 1 ≤ rem) :
    tailK rem t0 t1 t2 >>> (8 * rem) = 0#32 := by
  have h0 : t0.setWidth 32 >>> (8 * rem) = 0#32 := by
    simpa using setWidth_shiftLeft_ushiftRight_eq_zero t0 (n := 0) (m := 8 * rem) (by omega)
  have h1 : (if 2 ≤ rem then t1.setWidth 32 <<< 8 else 0#32) >>> (8 * rem) = 0#32 := by
    split
    · exact setWidth_shiftLeft_ushiftRight_eq_zero t1 (by omega)
    · exact BitVec.zero_ushiftRight
  have h2 : (if 3 ≤ rem then t2.setWidth 32 <<< 16 else 0#32) >>> (8 * rem) = 0#32 := by
    split
    · exact setWidth_shiftLeft_ushiftRight_eq_zero t2 (by omega)
    · exact BitVec.zero_ushiftRight
  rw [tailK, BitVec.ushiftRight_or_distrib, BitVec.ushiftRight_or_distrib, h0, h1, h2, BitVec.or_zero, BitVec.or_zero]

/-- Settles O32: a shorter tail is a tail of three with 0 for the missing bytes, and each byte ends below bit `8 * rem`. -/
theorem tailIsZeroPaddedGroup : Obligations.TailIsZeroPaddedGroup := by
  intro t0 t1 t2
  refine ⟨tailK_three t0 t1 t2, ?_, ?_, fun rem h1 _ => tailK_ushiftRight_eq_zero t0 t1 t2 h1⟩
  · rw [tailK_two, tailK_three]
  · rw [tailK_one, tailK_three]

/-! ## TAIL, case by case (R132) -/

theorem tailBody_of_not_body (hp : s.phase ≠ .body) : tailBody w s = .error ⟨.sequence, w, 0#32⟩ := by
  simp [tailBody, hp]

theorem tailBody_of_unfinished (hp : s.phase = .body) (hr : 4 ≤ remaining s) :
    tailBody w s = .error ⟨.sequence, w, 0#32⟩ := by
  simp [tailBody, hp, hr]

theorem tailBody_of_nothing_left (hp : s.phase = .body) (hr : remaining s = 0) : tailBody w s = .ok (closeBody s) := by
  simp [tailBody, hp, hr]

theorem tailBody_of_firstUnreadable (hp : s.phase = .body) (h1 : 1 ≤ remaining s) (h3 : remaining s ≤ 3)
    (ha : FirstUnreadable s (remaining s) a) : tailBody w s = .error ⟨.viewFault, w, a⟩ := by
  rcases tailBody_cases w s with ⟨hn, -⟩ | ⟨-, h4, -⟩ | ⟨-, h0, -⟩ | ⟨-, -, -, b, hb, h⟩ | ⟨-, -, -, bytes, hbytes, -⟩
  · exact absurd hp hn
  · omega
  · omega
  · rw [h, hb.unique ha]
  · exact absurd hbytes ha.not_bytesAt

theorem tailBody_of_bytes (hp : s.phase = .body) (h1 : 1 ≤ remaining s) (h3 : remaining s ≤ 3)
    (h : BytesAt s 0 (remaining s) bytes) :
    tailBody w s = .ok (foldTail (tailK (remaining s) (bytes 0) (bytes 1) (bytes 2)) s) := by
  have h4 : ¬ 4 ≤ remaining s := by omega
  have h0 : remaining s ≠ 0 := by omega
  simp [tailBody, hp, h4, h0, readTail_of_bytes h1 h]

theorem exec_tail (s : State) : exec .tail s = runUnlessErr (tailBody 0x00000004#32) s := rfl

/-- A TAIL that succeeds writes PHASE alone of the fields STATUS is composed of (R23, R132). -/
theorem status_of_exec_tail (hc : s.errCode = .none) (he : s.err = false) (h : exec .tail s = .next t)
    (ht : t.err = false) : status t = 0x00000002#32 := by
  rcases runUnlessErr_cases_of_no_err h he with hb | ⟨r, -, rfl⟩
  · obtain ⟨-, ⟨-, rfl⟩ | ⟨-, -, bytes, -, rfl⟩⟩ := tailBody_ok hb
    · exact status_of_no_error (s := closeBody s) hc he
    · exact status_of_no_error (s := foldTail _ s) hc he
  · exact absurd ht (by simp)

/-- Settles O16: TAIL's cases are those of its body, run while no error is recorded. -/
theorem tailFoldsTheRest : Obligations.TailFoldsTheRest := by
  refine ⟨decode_iff_eq_encode fun _ => rfl, fun s he => ?_⟩
  simp only [exec_tail, ← four_le_remaining_iff, ← bytesAt_zero_iff]
  refine ⟨fun t hc => status_of_exec_tail hc he, fun hp => ?_, fun hp hr => ?_, fun hp hlen => ?_,
    fun rem h1 h3 hp hlen => ?_⟩
  · exact runUnlessErr_of_error he (tailBody_of_not_body hp)
  · exact runUnlessErr_of_error he (tailBody_of_unfinished hp hr)
  · have hr : remaining s = 0 := by simp [remaining, hlen]
    exact runUnlessErr_of_ok he (tailBody_of_nothing_left hp hr)
  · obtain rfl : rem = remaining s := by simp [remaining, hlen]
    exact ⟨fun a ha => runUnlessErr_of_error he (tailBody_of_firstUnreadable hp h1 h3 ha),
      fun bytes hbytes => runUnlessErr_of_ok he (tailBody_of_bytes hp h1 h3 hbytes)⟩

end Sys2Proof.Machine
end

section
/-! SUPPORT. The finalization avalanche and the FINAL command (spec/43_final.md R140 to R142): each XOR-shift stage is a
bijection, because doing it twice is the XOR-shift of twice the distance, and what FINAL does in each of its cases. -/

namespace Sys2Proof.Machine

variable {s t : State} {w : Word}

/-! ## The avalanche (R140, R142) -/

/-- The two middle terms cancel. -/
theorem xorShift_xorShift (x : Word) (n : Nat) : xorShift (xorShift x n) n = xorShift x (n + n) := by
  rw [xorShift, xorShift, xorShift, BitVec.ushiftRight_xor_distrib, ← BitVec.shiftRight_add, BitVec.xor_assoc,
    ← BitVec.xor_assoc (x >>> n), BitVec.xor_self, BitVec.zero_xor]

/-- A shift by the word's whole width leaves nothing to XOR. -/
theorem xorShift_of_width_le (x : Word) {n : Nat} (h : 32 ≤ n) : xorShift x n = x := by
  rw [xorShift, BitVec.ushiftRight_eq_zero h, BitVec.xor_zero]

/-- Doubling the distance reaches the width, where the XOR-shift is the identity. -/
theorem xorShift_bijective {n : Nat} (h0 : 0 < n) : Function.Bijective (fun x => xorShift x n) := by
  by_cases hw : 32 ≤ n
  · have hid : (fun x => xorShift x n) = id := funext fun x => xorShift_of_width_le x hw
    exact hid ▸ Function.bijective_id
  · have htwice : Function.Bijective ((fun x => xorShift x n) ∘ fun x => xorShift x n) := by
      simpa only [Function.comp_def, xorShift_xorShift] using xorShift_bijective (n := n + n) (by omega)
    exact ⟨htwice.injective.of_comp, htwice.surjective.of_comp⟩
termination_by 32 - n

theorem fmix_zero : fmix 0#32 = 0#32 := by decide

theorem fmix_bijective : Function.Bijective fmix := by
  have h16 := xorShift_bijective (n := 16) (by decide)
  have hf1 := mul_bijective_of_inverse (c := f1) (d := 0xa5cb9243#32) (by decide)
  have h13 := xorShift_bijective (n := 13) (by decide)
  have hf2 := mul_bijective_of_inverse (c := f2) (d := 0x7ed1b41d#32) (by decide)
  exact h16.comp (hf2.comp (h13.comp (hf1.comp h16)))

/-- Settles O33: `fmix` is the composition of five invertible stages, each of which keeps 0. -/
theorem avalancheProperties : Obligations.AvalancheProperties := ⟨fmix_zero, fmix_bijective⟩

/-! ## FINAL, case by case (R141) -/

theorem finalBody_of_not_tailed (hp : s.phase ≠ .tailed) : finalBody w s = .error ⟨.sequence, w, 0#32⟩ := by
  simp [finalBody, hp]

theorem finalBody_of_tailed (hp : s.phase = .tailed) : finalBody w s = .ok (finishHash s) := by
  simp [finalBody, hp]

theorem exec_final (s : State) : exec .final s = runUnlessErr (finalBody 0x00000005#32) s := rfl

/-- A FINAL that succeeds leaves PHASE DONE and no error recorded (R23, R141). -/
theorem status_of_exec_final (hc : s.errCode = .none) (he : s.err = false) (h : exec .final s = .next t)
    (ht : t.err = false) : status t = 0x00000003#32 := by
  rcases runUnlessErr_cases_of_no_err h he with hb | ⟨r, -, rfl⟩
  · obtain ⟨-, rfl⟩ := finalBody_ok hb
    exact status_of_no_error (s := finishHash s) hc he
  · exact absurd ht (by simp)

/-- Settles O17: FINAL's two cases are those of its body, run while no error is recorded. -/
theorem finalWritesResult : Obligations.FinalWritesResult := by
  refine ⟨decode_iff_eq_encode fun _ => rfl, fun s he =>
    ⟨fun t hc => status_of_exec_final hc he, fun hp => ?_, fun hp => ?_⟩⟩
  · exact runUnlessErr_of_error he (finalBody_of_not_tailed hp)
  · exact runUnlessErr_of_ok he (finalBody_of_tailed hp)

end Sys2Proof.Machine
end

section
/-! SUPPORT. The LANE4 command (spec/44_lane.md R150 to R154): what its body answers in each of its cases, that it writes what
four CHUNKs write but for the lanes, and that without the lane mixer no move writes the lanes but to clear them. -/

namespace Sys2Proof.Machine

variable {s t : State} {w a : Word} {n : Nat} {bytes : Nat → Byte} {i : Instr} {mv : HostMove}

/-! ## LANE4, case by case (R151) -/

theorem lane4Body_of_not_body (hp : s.phase ≠ .body) : lane4Body w s = .error ⟨.sequence, w, 0#32⟩ := by
  simp [lane4Body, hp]

theorem lane4Body_of_short (hp : s.phase = .body) (hr : remaining s < 16) :
    lane4Body w s = .error ⟨.bounds, w, 0#32⟩ := by
  simp [lane4Body, hp, hr]

theorem lane4Body_of_firstUnreadable (hp : s.phase = .body) (hr : 16 ≤ remaining s) (ha : FirstUnreadable s 16 a) :
    lane4Body w s = .error ⟨.viewFault, w, a⟩ := by
  rcases lane4Body_cases w s with ⟨hn, -⟩ | ⟨-, hlt, -⟩ | ⟨-, -, b, hb, h⟩ | ⟨-, -, bytes, hbytes, -⟩
  · exact absurd hp hn
  · omega
  · rw [h, hb.unique ha]
  · exact absurd hbytes ha.not_bytesAt

theorem lane4Body_of_bytes (hp : s.phase = .body) (hr : 16 ≤ remaining s) (h : BytesAt s 0 16 bytes) :
    lane4Body w s = .ok (foldBlock (blockAt bytes 0) s) := by
  simp [lane4Body, hp, hr, readBlock_of_bytes h]

theorem exec_lane4 (s : State) : exec .lane4 s = runUnlessErr (lane4Body 0x00000003#32) s := rfl

/-- A LANE4 that succeeds found its block readable and folded it. -/
theorem exec_lane4_ok (he : s.err = false) (h : exec .lane4 s = .next t) (ht : t.err = false) :
    s.phase = .body ∧ 16 ≤ remaining s ∧ ∃ bytes, BytesAt s 0 16 bytes ∧ t = foldBlock (blockAt bytes 0) s := by
  rcases runUnlessErr_cases_of_no_err h he with hb | ⟨r, -, rfl⟩
  · exact lane4Body_ok hb
  · exact absurd ht (by simp)

theorem le_remaining_iff (hn : 0 < n) : n ≤ remaining s ↔ s.off.toNat + n ≤ s.len.toNat := by
  unfold remaining
  omega

/-- Settles O15: LANE4's four cases are those of its body, run while no error is recorded; lane `i` is the mixed group `i`. -/
theorem laneFoldsOneBlock : Obligations.LaneFoldsOneBlock := by
  refine ⟨fun hasLanes w => ?_, fun s he => ?_⟩
  · rw [wordDecodesIffCommandWord hasLanes w .lane4, Instr.wellFormed, encode, eq_comm (a := w)]
  simp only [exec_lane4, ← le_remaining_iff (n := 16) (by decide), ← bytesAt_zero_iff]
  refine ⟨fun hp => ?_, fun hp hlt => ?_, fun hp hr a ha => ?_, fun hp hr bytes hbytes lane hlane => ?_⟩
  · exact runUnlessErr_of_error he (lane4Body_of_not_body hp)
  · have hr : remaining s < 16 := by
      rw [← not_le, le_remaining_iff (by decide)]
      omega
    exact runUnlessErr_of_error he (lane4Body_of_short hp hr)
  · exact runUnlessErr_of_error he (lane4Body_of_firstUnreadable hp hr ha)
  · rw [runUnlessErr_of_ok he (lane4Body_of_bytes hp hr hbytes), hlane 0 (by decide), hlane 1 (by decide),
      hlane 2 (by decide), hlane 3 (by decide)]
    simp [foldBlock, foldLanes, blockAt, groupAt]

/-! ## LANE4 and four CHUNKs (R152) -/

/-- Where CHUNKs succeed: in BODY with no error, and the next `n` bytes are input and hold `bytes` from place `p` on. -/
structure FoldReady (bytes : Nat → Byte) (p n : Nat) (s : State) : Prop where
  noError : s.err = false
  inBody : s.phase = .body
  within : n ≤ remaining s
  readable : BytesAt s 0 n (fun i => bytes (p + i))

theorem inputAddr_foldGroup (k : Word) (s : State) (j : Nat) : inputAddr (foldGroup k s) j = inputAddr s (4 + j) := by
  simp [inputAddr, BitVec.add_assoc, BitVec.ofNat_add]

section FoldReady

variable {p : Nat} (h : FoldReady bytes p (4 + n) s)
include h

theorem FoldReady.group_within : 4 ≤ remaining s := le_trans (Nat.le_add_right 4 n) h.within

theorem FoldReady.runCommands_chunk (rest : List Instr) :
    runCommands (.chunk :: rest) s = runCommands rest (foldGroup (groupAt bytes p) s) := by
  have hgroup : BytesAt s 0 4 (fun i => bytes (p + i)) := fun i hi => h.readable i (by omega)
  have hbody : chunkBody 0x00000002#32 s = .ok (foldGroup (groupAt bytes p) s) := by
    simpa [groupAt] using chunkBody_of_bytes h.inBody h.group_within hgroup
  rw [runCommands, exec_chunk, runUnlessErr_of_ok h.noError hbody]

/-- The bytes after a folded group are next. -/
theorem FoldReady.advance (k : Word) : FoldReady bytes (p + 4) n (foldGroup k s) where
  noError := h.noError
  inBody := h.inBody
  within := by
    have hrest : remaining (foldGroup k s) + 4 = remaining s :=
      remaining_of_advanced h.group_within (by decide) rfl rfl
    have hwithin := h.within
    omega
  readable i hi := by
    simpa [inputAddr_foldGroup, Nat.add_assoc] using h.readable (4 + i) (by omega)

end FoldReady

theorem runCommands_four_chunks (h : FoldReady bytes 0 16 s) : runCommands [.chunk, .chunk, .chunk, .chunk] s =
    .next (foldGroup (groupAt bytes 12) (foldGroup (groupAt bytes 8) (foldGroup (groupAt bytes 4)
      (foldGroup (groupAt bytes 0) s)))) := by
  have h0 : FoldReady bytes 0 (4 + 12) s := h
  have h4 : FoldReady bytes 4 (4 + 8) _ := h0.advance (groupAt bytes 0)
  have h8 : FoldReady bytes 8 (4 + 4) _ := h4.advance (groupAt bytes 4)
  have h12 : FoldReady bytes 12 (4 + 0) _ := h8.advance (groupAt bytes 8)
  rw [h0.runCommands_chunk, h4.runCommands_chunk, h8.runCommands_chunk, h12.runCommands_chunk, runCommands]

/-- Folding a block is folding its four groups one after another, but for the lanes (R150, R152). -/
theorem foldGroup_four (b : Block) (s : State) : foldGroup b.g3 (foldGroup b.g2 (foldGroup b.g1 (foldGroup b.g0 s))) =
    { foldBlock b s with lane0 := s.lane0, lane1 := s.lane1, lane2 := s.lane2, lane3 := s.lane3 } := by
  have hoff : s.off + 4#32 + 4#32 + 4#32 + 4#32 = s.off + 16#32 := by simp [BitVec.add_assoc]
  simp only [foldGroup, foldBlock, foldLanes, hoff]

/-- Settles O34: LANE4 succeeds only where its 16 bytes are readable, and there four CHUNKs fold the same four groups. -/
theorem laneBlockEqualsFourChunks : Obligations.LaneBlockEqualsFourChunks := by
  intro s t he h ht
  obtain ⟨hp, hr, bytes, hbytes, rfl⟩ := exec_lane4_ok he h ht
  rw [runCommands_four_chunks ⟨he, hp, hr, by simpa using hbytes⟩]
  exact congrArg Host.Outcome.next (foldGroup_four (blockAt bytes 0) s)

/-! ## Without the lane mixer (R33, R154) -/

/-- The four lanes of `t` are those of `s`, or all 0. -/
def LanesKeptOrCleared (s t : State) : Prop :=
  (t.lane0 = s.lane0 ∧ t.lane1 = s.lane1 ∧ t.lane2 = s.lane2 ∧ t.lane3 = s.lane3) ∨
  (t.lane0 = 0#32 ∧ t.lane1 = 0#32 ∧ t.lane2 = 0#32 ∧ t.lane3 = 0#32)

theorem LanesKeptOrCleared.refl (s : State) : LanesKeptOrCleared s s := .inl ⟨rfl, rfl, rfl, rfl⟩

theorem LanesKeptOrCleared.raiseError (h : LanesKeptOrCleared s t) (r : Raised) :
    LanesKeptOrCleared s (raiseError r t) := by
  simpa [LanesKeptOrCleared] using h

/-- Only LANE4's body writes the lanes. -/
theorem lanesKeptOrCleared_keptByBodies (s : State) : KeptByBodies False (LanesKeptOrCleared s) where
  group _ _ h _ _ := h
  block := nofun
  close _ h _ _ := h
  tail _ _ h _ := h
  finish _ h _ := h
  error _ r _ h _ := h.raiseError r

theorem exec_lanesKeptOrCleared (hi : ¬ (i = .lane4 ∨ i = .hash true)) (h : exec i s = .next t) :
    LanesKeptOrCleared s t :=
  exec_keeps ((lanesKeptOrCleared_keptByBodies s).mono hi) (fun _ => .inr ⟨rfl, rfl, rfl, rfl⟩) (.refl s) h

theorem moveEffect_lanesKeptOrCleared (hl : s.cfg.hasLanes = false) (h : MoveEffect s mv t) :
    LanesKeptOrCleared s t := by
  cases h with
  | read | ignored | releaseReset | setView => exact .refl s
  | command _ hd hexec =>
    refine exec_lanesKeptOrCleared (fun hi => ?_) hexec
    exact absurd (hl.symm.trans (hasLanes_of_wellFormed (wellFormed_of_decode hd) hi)) nofun
  | illegal | locked => exact (LanesKeptOrCleared.refl s).raiseError _
  | stored _ _ hu => cases hu <;> exact .refl s
  | assertReset => exact .inr ⟨rfl, rfl, rfl, rfl⟩

theorem decode_ne_ok_of_illegalWord {hasLanes : Bool} (hw : IllegalWord hasLanes w) (i : Instr) :
    decode hasLanes w ≠ .ok i := by
  obtain ⟨e, he⟩ := illegalWord_iff_decode_error.mp hw
  simp [he]

/-- Settles O42: without the lane mixer both words are R85 (d)'s, and no effect of a move but INIT's, HASH's and reset's
clearing reaches the lanes. -/
theorem lanesStayUnwrittenWithoutMixer : Obligations.LanesStayUnwrittenWithoutMixer := by
  intro s t hl
  refine ⟨fun i => ⟨decode_ne_ok_of_illegalWord (.inr (.inr (.inr ⟨hl, .inl rfl⟩))) i,
    decode_ne_ok_of_illegalWord (.inr (.inr (.inr ⟨hl, .inr rfl⟩))) i⟩, fun h => ?_⟩
  rcases step_cases h with ⟨-, rfl⟩ | ⟨mv, rest, -, he⟩
  · exact LanesKeptOrCleared.refl t
  · exact moveEffect_lanesKeptOrCleared (s := { s with pending := rest }) hl he

end Sys2Proof.Machine
end

section
/-! SUPPORT. The reference functions (spec/45_sequencer.md R160, R162): groups folded in two runs are groups folded in one,
and a block through the lane mixer is its four groups, so the lane and the scalar algorithm agree (R164). -/

namespace Sys2Proof.Machine

variable (data : Nat → Byte)

theorem foldGroups_add (p m n : Nat) (h : Word) :
    foldGroups data (p + 4 * m) n (foldGroups data p m h) = foldGroups data p (m + n) h := by
  induction n with
  | zero => rfl
  | succ n ih =>
    have hplace : p + 4 * m + 4 * n = p + 4 * (m + n) := by omega
    rw [← Nat.add_assoc, foldGroups, foldGroups, ih, hplace]

/-- The lane mixer folds the four groups of its block one after another (R150, R153). -/
theorem foldLanes_blockAt (p : Nat) (h : Word) : foldLanes h (blockAt data p) = foldGroups data p 4 h := by
  simp only [foldLanes, blockAt, foldGroups, Nat.mul_zero, Nat.mul_one, Nat.add_zero, Nat.reduceMul]

theorem foldLanes_foldGroups (g : Nat) (h : Word) :
    foldLanes (foldGroups data 0 g h) (blockAt data (4 * g)) = foldGroups data 0 (g + 4) h := by
  rw [foldLanes_blockAt, ← foldGroups_add, Nat.zero_add]

theorem foldBlocks_eq_foldGroups (n : Nat) (h : Word) : foldBlocks data n h = foldGroups data 0 (4 * n) h := by
  induction n with
  | zero => rfl
  | succ n ih =>
    have hplace : 16 * n = 4 * (4 * n) := by omega
    rw [foldBlocks, ih, hplace, foldLanes_foldGroups, Nat.mul_succ]

/-- Settles O35: the blocks are the first `4 * (len / 16)` groups, and the groups after them are the rest. -/
theorem vectorHashEqualsScalarHash : Obligations.VectorHashEqualsScalarHash := by
  intro data len seed
  have hplace : 16 * (len.toNat / 16) = 0 + 4 * (4 * (len.toNat / 16)) := by omega
  have hgroups : 4 * (len.toNat / 16) + len.toNat % 16 / 4 = len.toNat / 4 := by omega
  rw [vhash32, hash32, foldBlocks_eq_foldGroups, hplace, foldGroups_add, hgroups]

theorem hash32_zero_zero : hash32 data 0#32 0#32 = 0#32 := by
  simp [hash32, hashTail, foldGroups, fmix_zero]

/-! ## What K and the lanes hold (R31, R33) -/

/-- The last of the first `g` groups; 0 when there is none. -/
def lastGroup : Nat → Word
  | 0 => 0#32
  | g + 1 => groupAt data (4 * g)

theorem lastGroup_eq (g : Nat) : lastGroup data g = if 4 * g = 0 then 0#32 else groupAt data (4 * g - 4) := by
  cases g with
  | zero => rfl
  | succ g => rw [lastGroup, if_neg (by omega), Nat.mul_succ, Nat.add_sub_cancel]

/-- What K holds after the hash of `len` bytes: the tail composition, else the last group. -/
def lastK (len : Nat) : Word :=
  if len % 4 = 0 then lastGroup data (len / 4)
  else tailK (len % 4) (data (4 * (len / 4))) (data (4 * (len / 4) + 1)) (data (4 * (len / 4) + 2))

/-- The four mixed groups of a block. -/
def Block.mixed (b : Block) : Block := ⟨mixK b.g0, mixK b.g1, mixK b.g2, mixK b.g3⟩

/-- What the lanes hold after HASH has folded the first `n` blocks. -/
def lanesAfter : Nat → Block
  | 0 => ⟨0#32, 0#32, 0#32, 0#32⟩
  | n + 1 => (blockAt data (16 * n)).mixed

theorem lanesAfter_of_pos {n : Nat} (hn : 0 < n) : lanesAfter data n = (blockAt data (16 * (n - 1))).mixed := by
  obtain ⟨m, rfl⟩ := Nat.exists_eq_add_of_lt hn
  rw [Nat.zero_add, lanesAfter, Nat.add_sub_cancel]

end Sys2Proof.Machine
end

section
/-! SUPPORT. The HASH sequencer (spec/45_sequencer.md R161) on an input that is read up to some byte: the states it goes
through, written out as functions of the number of groups folded, and the state in which each of its sub-steps ends. -/

namespace Sys2Proof.Machine

/-! ## Loops through known states -/

section Loop

variable {size len n c : Nat} {body : State → Except Raised State} {st : Nat → State}
  (hsize : 0 < size) (hfit : size * n ≤ len) (hc : c ≤ n)
  (hrem : ∀ i, i ≤ n → remaining (st i) = len - size * i)
  (hround : ∀ i, i < n → body (st i) = .ok (st (i + 1)))
include hfit hrem

theorem loop_guard {i : Nat} (hi : i < n) : size ≤ remaining (st i) := by
  have hnext : size * (i + 1) ≤ len := le_trans (Nat.mul_le_mul_left size hi) hfit
  rw [Nat.mul_succ] at hnext
  rw [hrem i hi.le]
  exact Nat.le_sub_of_add_le' hnext

include hsize hc

/-- The loop of R161 is given a round for every `size` bytes that remain. -/
theorem loop_fuel : n - c ≤ remaining (st c) / size := by
  rw [hrem c hc, Nat.le_div_iff_mul_le hsize, Nat.mul_comm, Nat.mul_sub]
  exact Nat.sub_le_sub_right hfit _

include hround

/-- A loop of HASH that runs out of bytes at its state `n`. -/
theorem consumeAll_ok (hend : len < size * n + size) : consumeAll size body (st c) = .ok (st n) := by
  obtain ⟨t, hloop, rfl⟩ := whileRemaining_ok (P := fun i s => s = st i) (size := size) (body := body) (n := n)
    (fun i s hi hs => by subst hs; exact ⟨loop_guard hfit hrem hi, _, hround i hi, rfl⟩)
    (fun s hs => by rw [hs, hrem n le_rfl]; exact Nat.sub_lt_left_of_lt_add hfit hend) hc
    (loop_fuel hsize hfit hc hrem) rfl
  exact hloop

/-- A loop of HASH that an error ends in its state `n`. -/
theorem consumeAll_error {r : Raised} (hnext : size * n + size ≤ len) (hfail : body (st n) = .error r) :
    consumeAll size body (st c) = .error (raiseError r (st n)) := by
  have hguard : size ≤ remaining (st n) := by rw [hrem n le_rfl]; exact Nat.le_sub_of_add_le' hnext
  have hfuel : n - c < remaining (st c) / size := by
    rw [hrem c hc, Nat.lt_iff_add_one_le, Nat.le_div_iff_mul_le hsize, Nat.succ_mul, Nat.mul_comm, Nat.mul_sub]
    have hmono := Nat.mul_le_mul_left size hc
    omega
  obtain ⟨t, hloop, rfl⟩ := whileRemaining_error (P := fun i s => s = st i) (size := size) (body := body) (n := n)
    (fun i s hi hs => by subst hs; exact ⟨loop_guard hfit hrem hi, _, hround i hi, rfl⟩)
    (fun s hs => by subst hs; exact ⟨hguard, hfail⟩) hc hfuel rfl
  exact hloop

end Loop

/-! ## The states HASH goes through -/

variable {data : Nat → Byte} {s : State} {lanes : Block} {w : Word} {l : Bool} {g n m : Nat}

/-- The hash started in `s` once `g` groups are folded, the lanes holding `lanes`. -/
def hashFolded (data : Nat → Byte) (g : Nat) (lanes : Block) (s : State) : State :=
  { startHash s with
    off := BitVec.ofNat 32 (4 * g), h := foldGroups data 0 g s.seed, k := lastGroup data g, m := mixK (lastGroup data g),
    lane0 := lanes.g0, lane1 := lanes.g1, lane2 := lanes.g2, lane3 := lanes.g3 }

/-- The hash started in `s` once it is complete. -/
def hashDone (data : Nat → Byte) (lanes : Block) (s : State) : State :=
  { startHash s with
    off := s.len, h := hash32 data s.len s.seed, k := lastK data s.len.toNat, m := mixK (lastK data s.len.toNat),
    result := hash32 data s.len s.seed, lane0 := lanes.g0, lane1 := lanes.g1, lane2 := lanes.g2, lane3 := lanes.g3,
    phase := .done }

@[simp] theorem hashFolded_phase : (hashFolded data g lanes s).phase = .body := rfl
@[simp] theorem hashFolded_err : (hashFolded data g lanes s).err = false := rfl
@[simp] theorem hashFolded_len : (hashFolded data g lanes s).len = s.len := rfl
@[simp] theorem hashFolded_base : (hashFolded data g lanes s).base = s.base := rfl
@[simp] theorem hashFolded_off : (hashFolded data g lanes s).off = BitVec.ofNat 32 (4 * g) := rfl
@[simp] theorem hashFolded_h : (hashFolded data g lanes s).h = foldGroups data 0 g s.seed := rfl

theorem startHash_eq_hashFolded : startHash s = hashFolded data 0 (lanesAfter data 0) s := by
  simp only [hashFolded, lanesAfter, lastGroup, foldGroups, mixK_zero]
  rfl

theorem hashFolded_off_toNat (hg : 4 * g ≤ s.len.toNat) : (hashFolded data g lanes s).off.toNat = 4 * g := by
  have hlen := s.len.isLt
  rw [hashFolded_off, BitVec.toNat_ofNat, Nat.mod_eq_of_lt (by omega)]

theorem remaining_hashFolded (hg : 4 * g ≤ s.len.toNat) :
    remaining (hashFolded data g lanes s) = s.len.toNat - 4 * g := by
  rw [remaining, hashFolded_off_toNat hg, hashFolded_len]

theorem inputAddr_hashFolded (hg : 4 * g ≤ s.len.toNat) (j : Nat) :
    inputAddr (hashFolded data g lanes s) j = s.base + BitVec.ofNat 32 (4 * g + j) := by
  rw [inputAddr_eq_base_add, hashFolded_off_toNat hg, hashFolded_base]

theorem foldGroup_hashFolded :
    foldGroup (groupAt data (4 * g)) (hashFolded data g lanes s) = hashFolded data (g + 1) lanes s := by
  simp only [foldGroup, hashFolded, foldGroups, lastGroup, Nat.zero_add, Nat.mul_succ, BitVec.ofNat_add]

theorem foldBlock_hashFolded : foldBlock (blockAt data (4 * g)) (hashFolded data g lanes s) =
    hashFolded data (g + 4) (blockAt data (4 * g)).mixed s := by
  have hlast : (blockAt data (4 * g)).g3 = lastGroup data (g + 4) := rfl
  simp only [foldBlock, hashFolded, foldLanes_foldGroups, hlast, Block.mixed, Nat.mul_add, Nat.reduceMul,
    BitVec.ofNat_add]

/-! ## Reading on the way -/

/-- The first `n` bytes at BASE are readable and are `data` (R62). -/
def ReadsTo (s : State) (data : Nat → Byte) (n : Nat) : Prop :=
  ∀ i, i < n → s.view.read (s.base + BitVec.ofNat 32 i) = some (data i)

/-- The input is read as `data` up to its byte `n`, which is unreadable (R184). -/
structure UnreadableAt (s : State) (data : Nat → Byte) (n : Nat) : Prop where
  within : n < s.len.toNat
  below : ReadsTo s data n
  unreadable : s.view.read (s.base + BitVec.ofNat 32 n) = none

theorem ReadsTo.bytesAt (h : ReadsTo s data n) (hg : 4 * g ≤ s.len.toNat) (hm : 4 * g + m ≤ n) :
    BytesAt (hashFolded data g lanes s) 0 m (fun i => data (4 * g + i)) := fun i hi => by
  rw [inputAddr_hashFolded hg, Nat.zero_add]
  exact h _ (by omega)

theorem UnreadableAt.firstUnreadable (h : UnreadableAt s data n) (hg : 4 * g ≤ n) (hm : n < 4 * g + m) :
    FirstUnreadable (hashFolded data g lanes s) m (s.base + BitVec.ofNat 32 n) := by
  have haddr := inputAddr_hashFolded (data := data) (lanes := lanes) (hg.trans h.within.le)
  have hplace : 4 * g + (n - 4 * g) = n := by omega
  refine ⟨n - 4 * g, by omega, fun i hi => ⟨data (4 * g + i), ?_⟩, ?_, ?_⟩
  · rw [haddr]; exact h.below _ (by omega)
  · rw [haddr, hplace]; exact h.unreadable
  · rw [haddr, hplace]

/-! ## One sub-step -/

theorem groupAt_shift (p q : Nat) : groupAt (fun i => data (p + i)) q = groupAt data (p + q) := by
  simp only [groupAt, Nat.add_assoc]

theorem blockAt_shift (p : Nat) : blockAt (fun i => data (p + i)) 0 = blockAt data p := by
  simp only [blockAt, groupAt_shift, Nat.add_zero, Nat.zero_add]

theorem chunkBody_hashFolded (h : ReadsTo s data n) (hn : n ≤ s.len.toNat) (hg : 4 * g + 4 ≤ n) :
    chunkBody w (hashFolded data g lanes s) = .ok (hashFolded data (g + 1) lanes s) := by
  have hbefore : 4 * g ≤ s.len.toNat := by omega
  have hrem : 4 ≤ remaining (hashFolded data g lanes s) := by rw [remaining_hashFolded hbefore]; omega
  rw [← foldGroup_hashFolded]
  simpa [groupAt] using chunkBody_of_bytes hashFolded_phase hrem (h.bytesAt hbefore hg)

theorem lane4Body_hashFolded (h : ReadsTo s data n) (hn : n ≤ s.len.toNat) (hg : 4 * g + 16 ≤ n) :
    lane4Body w (hashFolded data g lanes s) = .ok (hashFolded data (g + 4) (blockAt data (4 * g)).mixed s) := by
  have hbefore : 4 * g ≤ s.len.toNat := by omega
  have hrem : 16 ≤ remaining (hashFolded data g lanes s) := by rw [remaining_hashFolded hbefore]; omega
  rw [← foldBlock_hashFolded, lane4Body_of_bytes hashFolded_phase hrem (h.bytesAt hbefore hg), blockAt_shift]

theorem chunkBody_unreadable (h : UnreadableAt s data n) (hlow : 4 * g ≤ n) (hhigh : n < 4 * g + 4)
    (hfit : 4 * g + 4 ≤ s.len.toNat) :
    chunkBody w (hashFolded data g lanes s) = .error ⟨.viewFault, w, s.base + BitVec.ofNat 32 n⟩ :=
  chunkBody_of_firstUnreadable hashFolded_phase (by rw [remaining_hashFolded (by omega)]; omega)
    (h.firstUnreadable hlow hhigh)

theorem lane4Body_unreadable (h : UnreadableAt s data n) (hlow : 4 * g ≤ n) (hhigh : n < 4 * g + 16)
    (hfit : 4 * g + 16 ≤ s.len.toNat) :
    lane4Body w (hashFolded data g lanes s) = .error ⟨.viewFault, w, s.base + BitVec.ofNat 32 n⟩ :=
  lane4Body_of_firstUnreadable hashFolded_phase (by rw [remaining_hashFolded (by omega)]; omega)
    (h.firstUnreadable hlow hhigh)

theorem tailBody_unreadable (h : UnreadableAt s data n) (hg : g = n / 4) (hfit : s.len.toNat < 4 * g + 4) :
    tailBody w (hashFolded data g lanes s) = .error ⟨.viewFault, w, s.base + BitVec.ofNat 32 n⟩ := by
  have hwithin := h.within
  have hrem := remaining_hashFolded (data := data) (lanes := lanes) (s := s) (g := g) (by omega)
  exact tailBody_of_firstUnreadable hashFolded_phase (by omega) (by omega) (h.firstUnreadable (by omega) (by omega))

/-- After the body, TAIL is in order and FINAL completes the hash. -/
theorem tailBody_hashFolded (h : InputIs s data) (hg : g = s.len.toNat / 4) : ∃ u,
    tailBody w (hashFolded data g lanes s) = .ok u ∧ u.phase = .tailed ∧ u.err = false ∧
      finishHash u = hashDone data lanes s := by
  have hbefore : 4 * g ≤ s.len.toNat := by omega
  have hrem : remaining (hashFolded data g lanes s) = s.len.toNat % 4 := by
    rw [remaining_hashFolded hbefore]; omega
  by_cases hmod : s.len.toNat % 4 = 0
  · have hoff : BitVec.ofNat 32 (4 * g) = s.len := by
      rw [hg, Nat.mul_div_cancel' (Nat.dvd_of_mod_eq_zero hmod), BitVec.ofNat_toNat, BitVec.setWidth_eq]
    refine ⟨_, tailBody_of_nothing_left hashFolded_phase (hrem.trans hmod), rfl, rfl, ?_⟩
    simp only [finishHash, closeBody, hashFolded, hashDone, hash32, hashTail, lastK, hmod, if_true, hoff, ← hg,
      startHash_len]
  · have hbytes := ReadsTo.bytesAt (lanes := lanes) h hbefore (m := s.len.toNat % 4) (by omega)
    refine ⟨_, tailBody_of_bytes hashFolded_phase (by omega) (by omega) (hrem ▸ hbytes), rfl, rfl, ?_⟩
    rw [hrem]
    simp only [finishHash, foldTail, hashFolded, hashDone, hash32, hashTail, lastK, hmod, if_false, ← hg,
      startHash_len, Nat.mul_comm g 4, Nat.add_zero]

end Sys2Proof.Machine
end

section
/-! SUPPORT. What HASH and the single-step sequences end in: on a readable input the completed hash (spec/45_sequencer.md
R163 to R167), at an unreadable byte VIEW_FAULT in the state its sub-steps left (R161, R187). -/

namespace Sys2Proof.Machine

variable {data : Nat → Byte} {s t : State} {lanes : Block} {w : Word} {l : Bool} {g n : Nat} {i : Instr}

/-! ## The loops of HASH -/

/-- The number of blocks HASH sends through the lane mixer when `n` bytes can be read. -/
def blocksOf (l : Bool) (n : Nat) : Nat := if l then n / 16 else 0

/-- The hash started in `s` once `c` blocks have gone through the lane mixer. -/
def hashLaned (data : Nat → Byte) (s : State) (c : Nat) : State := hashFolded data (4 * c) (lanesAfter data c) s

theorem remaining_hashLaned {c : Nat} (hc : 16 * c ≤ s.len.toNat) :
    remaining (hashLaned data s c) = s.len.toNat - 16 * c := by
  rw [hashLaned, remaining_hashFolded (by omega)]
  omega

theorem lane4Body_hashLaned {c : Nat} (h : ReadsTo s data n) (hn : n ≤ s.len.toNat) (hc : c < n / 16) :
    lane4Body w (hashLaned data s c) = .ok (hashLaned data s (c + 1)) := by
  have hplace : 4 * (4 * c) = 16 * c := by omega
  rw [hashLaned, lane4Body_hashFolded h hn (by omega), hplace]
  rfl

theorem laneSteps_readable (h : ReadsTo s data n) (hn : n ≤ s.len.toNat)
    (hend : l = true → s.len.toNat < 16 * (n / 16) + 16) :
    laneSteps l w (startHash s) = .ok (hashLaned data s (blocksOf l n)) := by
  rw [startHash_eq_hashFolded (data := data)]
  cases l with
  | false => rfl
  | true =>
    exact consumeAll_ok (st := hashLaned data s) (by decide) (by omega) (Nat.zero_le (n / 16))
      (fun c hc => remaining_hashLaned (by omega)) (fun c hc => lane4Body_hashLaned h hn hc) (hend rfl)

theorem laneSteps_unreadable (h : UnreadableAt s data n) (hfit : 16 * (n / 16) + 16 ≤ s.len.toNat) :
    laneSteps true w (startHash s) =
      .error (raiseError ⟨.viewFault, w, s.base + BitVec.ofNat 32 n⟩ (hashLaned data s (n / 16))) := by
  rw [startHash_eq_hashFolded (data := data)]
  exact consumeAll_error (st := hashLaned data s) (by decide) (by omega) (Nat.zero_le _)
    (fun c hc => remaining_hashLaned (by omega)) (fun c hc => lane4Body_hashLaned h.below h.within.le hc) hfit
    (lane4Body_unreadable h (by omega) (by omega) (by omega))

theorem chunkLoop_readable (h : ReadsTo s data n) (hn : n ≤ s.len.toNat) (hend : s.len.toNat < 4 * (n / 4) + 4)
    (hg : g ≤ n / 4) :
    consumeAll 4 (chunkBody w) (hashFolded data g lanes s) = .ok (hashFolded data (n / 4) lanes s) :=
  consumeAll_ok (st := fun g => hashFolded data g lanes s) (by decide) (by omega) hg
    (fun c hc => remaining_hashFolded (by omega)) (fun c hc => chunkBody_hashFolded h hn (by omega)) hend

theorem chunkLoop_unreadable (h : UnreadableAt s data n) (hfit : 4 * (n / 4) + 4 ≤ s.len.toNat) (hg : g ≤ n / 4) :
    consumeAll 4 (chunkBody w) (hashFolded data g lanes s) =
      .error (raiseError ⟨.viewFault, w, s.base + BitVec.ofNat 32 n⟩ (hashFolded data (n / 4) lanes s)) :=
  have hwithin := h.within
  consumeAll_error (st := fun g => hashFolded data g lanes s) (by decide) (by omega) hg
    (fun c hc => remaining_hashFolded (by omega)) (fun c hc => chunkBody_hashFolded h.below hwithin.le (by omega)) hfit
    (chunkBody_unreadable h (by omega) (by omega) hfit)

theorem four_mul_blocksOf_le : 4 * blocksOf l n ≤ n / 4 := by
  unfold blocksOf
  split <;> omega

/-! ## HASH -/

theorem exec_hash (l : Bool) (s : State) :
    exec (.hash l) s = .next (endState (hashSteps l (encode (.hash l)) (startHash s))) := rfl

/-- On a readable input HASH completes (R163, R165). -/
theorem exec_hash_readable (h : InputIs s data) :
    exec (.hash l) s = .next (hashDone data (lanesAfter data (blocksOf l s.len.toNat)) s) := by
  have hlanes := laneSteps_readable (l := l) (w := encode (.hash l)) h le_rfl (fun _ => by omega)
  have hchunks := chunkLoop_readable (w := encode (.hash l)) (lanes := lanesAfter data (blocksOf l s.len.toNat)) h le_rfl
    (by omega) (four_mul_blocksOf_le (l := l))
  obtain ⟨u, htail, hp, -, hdone⟩ := tailBody_hashFolded (w := encode (.hash l))
    (lanes := lanesAfter data (blocksOf l s.len.toNat)) h rfl
  simp only [exec_hash, hashSteps, hlanes, hashLaned, hchunks, perform_ok.mpr htail,
    perform_ok.mpr (finalBody_of_tailed hp), hdone, bind, Except.bind, endState]

/-- The number of groups HASH has folded when it stops at the unreadable byte `n` of `len`: with L = 1 it stops at the
block of that byte if there is such a block, else at the group of that byte or before the tail. -/
def groupsBefore (l : Bool) (n len : Nat) : Nat := if l = true ∧ 16 * (n / 16) + 16 ≤ len then 4 * (n / 16) else n / 4

/-- At an unreadable byte HASH stops in the state its sub-steps left (R161, R187). -/
theorem exec_hash_unreadable (h : UnreadableAt s data n) : exec (.hash l) s =
    .next (raiseError ⟨.viewFault, encode (.hash l), s.base + BitVec.ofNat 32 n⟩
      (hashFolded data (groupsBefore l n s.len.toNat) (lanesAfter data (blocksOf l n)) s)) := by
  have hwithin := h.within
  by_cases hblock : l = true ∧ 16 * (n / 16) + 16 ≤ s.len.toNat
  · obtain ⟨rfl, hfit⟩ := hblock
    have hlanes := laneSteps_unreadable (w := encode (.hash true)) h hfit
    simp only [exec_hash, hashSteps, hlanes, hashLaned, groupsBefore, blocksOf, hfit, if_true, and_self, bind,
      Except.bind, endState]
  · have hlanes := laneSteps_readable (l := l) (w := encode (.hash l)) h.below hwithin.le (fun hl => by
      have hshort : ¬ 16 * (n / 16) + 16 ≤ s.len.toNat := fun hfit => hblock ⟨hl, hfit⟩
      omega)
    by_cases hgroup : 4 * (n / 4) + 4 ≤ s.len.toNat
    · have hchunks := chunkLoop_unreadable (w := encode (.hash l)) (lanes := lanesAfter data (blocksOf l n)) h hgroup
        (four_mul_blocksOf_le (l := l))
      simp only [exec_hash, hashSteps, hlanes, hashLaned, hchunks, groupsBefore, if_neg hblock, bind,
        Except.bind, endState]
    · have hshort : s.len.toNat < 4 * (n / 4) + 4 := Nat.lt_of_not_le hgroup
      have hchunks := chunkLoop_readable (w := encode (.hash l)) (lanes := lanesAfter data (blocksOf l n)) h.below
        hwithin.le hshort (four_mul_blocksOf_le (l := l))
      have htail := perform_error.mpr ⟨_, tailBody_unreadable (w := encode (.hash l))
        (lanes := lanesAfter data (blocksOf l n)) h rfl hshort, rfl⟩
      simp only [exec_hash, hashSteps, hlanes, hashLaned, hchunks, htail, groupsBefore, if_neg hblock, bind,
        Except.bind, endState]

/-! ## The single-step sequence (R163) -/

theorem runCommands_cons {rest : List Instr} (h : runCommands (i :: rest) s = .next t) :
    ∃ u, exec i s = .next u ∧ runCommands rest u = .next t := by
  obtain ⟨u, hu⟩ := commandsAlwaysComplete i s
  rw [runCommands, hu] at h
  exact ⟨u, hu, h⟩

/-- CHUNK and LANE4 are ignored while an error is recorded (R188). -/
theorem runCommands_folds_of_err {folds : List Instr} (hfolds : ∀ c ∈ folds, c = .chunk ∨ c = .lane4)
    (he : s.err = true) : runCommands folds s = .next s := by
  induction folds with
  | nil => rfl
  | cons c rest ih =>
    obtain ⟨hc, hrest⟩ := List.forall_mem_cons.mp hfolds
    have hignored : exec c s = .next s := by
      rcases hc with rfl | rfl
      · rw [exec_chunk, runUnlessErr, if_pos he]
      · rw [exec_lane4, runUnlessErr, if_pos he]
    rw [runCommands, hignored]
    exact ih hrest

theorem runUnlessErr_err_or_ok {body : State → Except Raised State} (h : runUnlessErr body s = .next t)
    (he : s.err = false) : t.err = true ∨ body s = .ok t := by
  rcases runUnlessErr_cases_of_no_err h he with hb | ⟨r, -, rfl⟩
  · exact .inr hb
  · exact .inl (raiseError_err r s)

/-- A CHUNK or LANE4 on the way records an error or goes on to a later group. -/
theorem exec_fold_hashFolded (h : InputIs s data) (hg : 4 * g ≤ s.len.toNat) (hi : i = .chunk ∨ i = .lane4)
    (hexec : exec i (hashFolded data g lanes s) = .next t) :
    t.err = true ∨ ∃ g' lanes', 4 * g' ≤ s.len.toNat ∧ t = hashFolded data g' lanes' s := by
  rcases hi with rfl | rfl
  · rw [exec_chunk] at hexec
    refine (runUnlessErr_err_or_ok hexec hashFolded_err).imp_right fun hb => ?_
    obtain ⟨-, hr, -⟩ := chunkBody_ok hb
    rw [remaining_hashFolded hg] at hr
    rw [chunkBody_hashFolded h le_rfl (by omega)] at hb
    cases hb
    exact ⟨_, _, by omega, rfl⟩
  · rw [exec_lane4] at hexec
    refine (runUnlessErr_err_or_ok hexec hashFolded_err).imp_right fun hb => ?_
    obtain ⟨-, hr, -⟩ := lane4Body_ok hb
    rw [remaining_hashFolded hg] at hr
    rw [lane4Body_hashFolded h le_rfl (by omega)] at hb
    cases hb
    exact ⟨_, _, by omega, rfl⟩

/-- CHUNKs and LANE4s that leave no error have folded the first groups of the input. -/
theorem runCommands_folds_hashFolded {folds : List Instr} (h : InputIs s data)
    (hfolds : ∀ c ∈ folds, c = .chunk ∨ c = .lane4) (hg : 4 * g ≤ s.len.toNat)
    (hrun : runCommands folds (hashFolded data g lanes s) = .next t) (he : t.err = false) :
    ∃ g' lanes', 4 * g' ≤ s.len.toNat ∧ t = hashFolded data g' lanes' s := by
  induction folds generalizing g lanes with
  | nil => cases hrun; exact ⟨g, lanes, hg, rfl⟩
  | cons c rest ih =>
    obtain ⟨hc, hrest⟩ := List.forall_mem_cons.mp hfolds
    obtain ⟨u, hexec, hrun⟩ := runCommands_cons hrun
    rcases exec_fold_hashFolded h hg hc hexec with herr | ⟨g', lanes', hg', rfl⟩
    · rw [runCommands_folds_of_err hrest herr] at hrun
      cases hrun
      exact absurd (he.symm.trans herr) nofun
    · exact ih hrest hg' hrun

theorem steppedHash_readable (h : InputIs s data) (hrun : SteppedHash s t) : ∃ lanes, t = hashDone data lanes s := by
  obtain ⟨folds, u, hfolds, hbody, he, hr, hend⟩ := hrun
  obtain ⟨v, hinit, hbody⟩ := runCommands_cons hbody
  rw [exec_init, startHash_eq_hashFolded (data := data)] at hinit
  cases hinit
  obtain ⟨g, lanes, hg, rfl⟩ := runCommands_folds_hashFolded h hfolds (Nat.zero_le _) hbody he
  rw [remaining_hashFolded hg] at hr
  obtain ⟨v, htail, hp, hv, hdone⟩ := tailBody_hashFolded (lanes := lanes) (w := 0x00000004#32) (g := g) h (by omega)
  simp only [runCommands, exec_tail, runUnlessErr_of_ok hashFolded_err htail, exec_final,
    runUnlessErr_of_ok hv (finalBody_of_tailed hp), hdone] at hend
  cases hend
  exact ⟨lanes, rfl⟩

/-- Every conforming run completes the hash; only the lanes depend on which run it is (R163, R164). -/
theorem conformingRun_readable (h : InputIs s data) (hrun : ConformingRun s t) : ∃ lanes, t = hashDone data lanes s := by
  rcases hrun with hstep | ⟨l, hhash⟩
  · exact steppedHash_readable h hstep
  · rw [exec_hash_readable h] at hhash
    cases hhash
    exact ⟨_, rfl⟩

/-! ## The statements -/

theorem hashDone_result : (hashDone data lanes s).result = hash32 data s.len s.seed := rfl

theorem status_hashDone : status (hashDone data lanes s) = 0x00000003#32 :=
  status_of_no_error (s := hashDone data lanes s) rfl rfl

/-- Settles O37: HASH ends in the completed hash, whose fields are read off. -/
theorem hashCompletesOnReadableInput : Obligations.HashCompletesOnReadableInput := by
  intro l s data h
  refine ⟨_, exec_hash_readable h, rfl, rfl, status_hashDone, rfl, rfl, rfl, rfl, rfl, rfl, ?_, ?_, ?_, rfl, rfl, rfl,
    rfl⟩
  · rintro p rfl hmod
    exact if_neg hmod
  · intro hmod hpos
    have hlen : 4 * (s.len.toNat / 4) = s.len.toNat := Nat.mul_div_cancel' (Nat.dvd_of_mod_eq_zero hmod)
    have hne : s.len.toNat ≠ 0 := fun hzero => hpos (BitVec.eq_of_toNat_eq hzero)
    calc lastK data s.len.toNat = lastGroup data (s.len.toNat / 4) := if_pos hmod
      _ = groupAt data (s.len.toNat - 4) := by rw [lastGroup_eq, hlen, if_neg hne]
  · intro hzero
    change lastK data s.len.toNat = 0#32
    rw [hzero]
    rfl

/-- Settles O36: both runs end in the completed hash, and with L = 1 the lanes are those of the last block. -/
theorem laneBitChangesOnlyTheLanes : Obligations.LaneBitChangesOnlyTheLanes := by
  intro s data h
  refine ⟨_, _, exec_hash_readable h, exec_hash_readable h, rfl, rfl, rfl, rfl, rfl, fun hshort => ?_, ?_⟩
  · have hnone : blocksOf true s.len.toNat = blocksOf false s.len.toNat := Nat.div_eq_of_lt hshort
    rw [hnone]
  · rintro hlong p rfl
    rw [lanesAfter_of_pos data (n := blocksOf true s.len.toNat) (Nat.div_pos hlong (by decide))]
    exact ⟨rfl, rfl, rfl, rfl⟩

/-- Settles O38: every conforming run ends in the completed hash, and `vhash32` is `hash32`. -/
theorem conformingRunComputesHash : Obligations.ConformingRunComputesHash := by
  intro s t data h hrun
  obtain ⟨lanes, rfl⟩ := conformingRun_readable h hrun
  exact ⟨rfl, rfl, rfl, rfl, fun _ => hashDone_result.trans (vectorHashEqualsScalarHash data s.len s.seed).symm⟩

/-- Settles O39: both runs give `hash32` of the same bytes, length and seed. -/
theorem resultIsDetermined : Obligations.ResultIsDetermined := by
  intro s s' t t' data hseed hlen h h' hrun hrun'
  obtain ⟨lanes, rfl⟩ := conformingRun_readable h hrun
  obtain ⟨lanes', rfl⟩ := conformingRun_readable h' hrun'
  rw [hashDone_result, hashDone_result, hseed, hlen]

/-- Settles O40: `fmix` keeps 0, and an empty input is always readable. -/
theorem zeroCase : Obligations.ZeroCase := by
  refine ⟨hash32_zero_zero, fun l s hlen hseed => ?_⟩
  have hempty : InputIs s (fun _ => 0#8) := fun i hi => by simp [hlen] at hi
  refine ⟨_, exec_hash_readable hempty, ?_, status_hashDone⟩
  rw [hashDone_result, hlen, hseed, hash32_zero_zero]

theorem four_mul_groupsBefore : 4 * groupsBefore l n s.len.toNat =
    if l = true ∧ 16 * (n / 16) + 16 ≤ s.len.toNat then 16 * (n / 16) else 4 * (n / 4) := by
  unfold groupsBefore
  split <;> omega

/-- Settles O41: HASH ends where its sub-steps left it, with the error recorded, and the fields are read off. -/
theorem hashStopsAtFirstUnreadableByte : Obligations.HashStopsAtFirstUnreadableByte := by
  intro l s data n hn hbelow hnone
  have hexec := exec_hash_unreadable (l := l) ⟨hn, hbelow, hnone⟩
  rw [raiseError_of_no_err _ _ hashFolded_err] at hexec
  have hle : 4 * groupsBefore l n s.len.toNat ≤ s.len.toNat := by
    rw [four_mul_groupsBefore]
    split <;> omega
  have hoff := hashFolded_off_toNat (data := data) (lanes := lanesAfter data (blocksOf l n)) hle
  refine ⟨_, hexec, rfl, rfl, rfl, rfl, rfl, rfl, hoff.trans four_mul_groupsBefore, ?_, ?_, rfl, ?_, ?_, rfl, rfl, rfl,
    rfl⟩
  · simp only [hoff, Nat.mul_div_cancel_left _ (show 0 < 4 by decide), hashFolded_h]
  · simp only [hoff]
    exact lastGroup_eq data _
  · intro hfirst
    have hzero : blocksOf l n = 0 := by
      rcases hfirst with rfl | hlt
      · rfl
      · cases l
        · rfl
        · exact Nat.div_eq_of_lt hlt
    rw [hzero]
    exact ⟨rfl, rfl, rfl, rfl⟩
  · rintro rfl hlong p rfl
    rw [lanesAfter_of_pos data (n := blocksOf true n) (Nat.div_pos hlong (by decide))]
    exact ⟨rfl, rfl, rfl, rfl⟩

end Sys2Proof.Machine
end

section
/-! SUPPORT. The calling sequence (spec/45_sequencer.md R168): the three configuration writes, in any order, leave SEED, LEN
and BASE as written, and the accesses after them run and read the hash. -/

namespace Sys2Proof.Machine

variable {s t u : State} {a n seed : Word} {data : Nat → Byte} {todo rest : List HostMove} {mv : HostMove} {k : Nat}

/-! ## Runs of the core -/

theorem core_run_succ (h : step s = .next t) : Host.Core.run core (k + 1) s = Host.Core.run core k t := by
  simp only [Host.Core.run, core, h]

/-! ## The configuration writes -/

/-- The configuration writes that begin the calling sequence from `s`. -/
def configWrites (s : State) (a n seed : Word) : List HostMove :=
  [windowWrite s 0x10 a, windowWrite s 0x0C n, windowWrite s 0x08 seed]

/-- On the way from `s` through the configuration writes: those of `todo` are still to be made, the others are stored. -/
structure Configuring (s : State) (a n seed : Word) (rest todo : List HostMove) (u : State) : Prop where
  pending : u.pending = todo ++ rest
  writes : ∀ mv ∈ todo, mv ∈ configWrites s a n seed
  cfg : u.cfg = s.cfg
  view : u.view = s.view
  released : u.inReset = false
  unlocked : hashInProgress u = false
  base : windowWrite s 0x10 a ∈ todo ∨ u.base = a
  len : windowWrite s 0x0C n ∈ todo ∨ u.len = n
  seed : windowWrite s 0x08 seed ∈ todo ∨ u.seed = seed

theorem windowWrite_ne {offset offset' : Nat} {v v' : Word} (h : offset ≠ offset') :
    windowWrite s offset v ≠ windowWrite s offset' v' := by
  simp [windowWrite, h]

/-- A write that is not the next one is still to be made after it. -/
theorem mem_or_of_next_ne {offset offset' : Nat} {v v' : Word} {P : Prop} (hne : offset ≠ offset')
    (h : windowWrite s offset v ∈ windowWrite s offset' v' :: todo ∨ P) : windowWrite s offset v ∈ todo ∨ P :=
  h.imp_left fun hmem => (List.mem_cons.mp hmem).resolve_left (windowWrite_ne hne)

/-- Each configuration write stores its own register and leaves the others. -/
theorem Configuring.step_next (h : Configuring s a n seed rest (mv :: todo) u) :
    ∃ t, step u = .next t ∧ Configuring s a n seed rest todo t := by
  obtain ⟨hp, hwrites, hc, hv, hr, hu, hbase, hlen, hseed⟩ := h
  obtain ⟨hmv, hrest⟩ := List.forall_mem_cons.mp hwrites
  have hstep {offset : Nat} {v : Word} {r : WindowReg} (hmv : mv = windowWrite s offset v)
      (hreg : windowReg offset = some r) : step u = writeReg v { u with pending := todo ++ rest } r := by
    rw [hmv, windowWrite, ← hc] at hp
    exact step_windowWrite hr hp hreg
  have hstored (offset : Word) (store : State) :
      writeConfig offset store { u with pending := todo ++ rest } = store := writeConfig_stored hu
  simp only [configWrites, List.mem_cons, List.not_mem_nil, or_false] at hmv
  rcases hmv with rfl | rfl | rfl
  · refine ⟨_, (hstep rfl rfl).trans (congrArg _ (hstored _ _)), ⟨rfl, hrest, hc, hv, hr, hu, .inr rfl, ?_, ?_⟩⟩
    · exact mem_or_of_next_ne (by decide) hlen
    · exact mem_or_of_next_ne (by decide) hseed
  · refine ⟨_, (hstep rfl rfl).trans (congrArg _ (hstored _ _)), ⟨rfl, hrest, hc, hv, hr, hu, ?_, .inr rfl, ?_⟩⟩
    · exact mem_or_of_next_ne (by decide) hbase
    · exact mem_or_of_next_ne (by decide) hseed
  · refine ⟨_, (hstep rfl rfl).trans (congrArg _ (hstored _ _)), ⟨rfl, hrest, hc, hv, hr, hu, ?_, ?_, .inr rfl⟩⟩
    · exact mem_or_of_next_ne (by decide) hbase
    · exact mem_or_of_next_ne (by decide) hlen

/-- All configuration writes made. -/
theorem Configuring.run (h : Configuring s a n seed rest todo u) : ∃ t, Configuring s a n seed rest [] t ∧
    ∀ k, Host.Core.run core (k + todo.length) u = Host.Core.run core k t := by
  induction todo generalizing u with
  | nil => exact ⟨u, h, fun k => rfl⟩
  | cons mv todo ih =>
    obtain ⟨v, hstep, hv⟩ := h.step_next
    obtain ⟨t, ht, hrun⟩ := ih hv
    exact ⟨t, ht, fun k => (core_run_succ hstep).trans (hrun k)⟩

/-! ## The command and the reads -/

theorem step_hash {l : Bool} (h : InputIs s data) (hr : s.inReset = false) (hl : l = true → s.cfg.hasLanes = true)
    (hp : s.pending = cmdWrite s (encode (.hash l)) :: rest) :
    ∃ t, step s = .next t ∧ t.cfg = s.cfg ∧ t.inReset = s.inReset ∧ t.pending = rest ∧ status t = 0x00000003#32 ∧
      t.result = hash32 data s.len s.seed := by
  have hwf : (Instr.hash l).wellFormed s.cfg.hasLanes = true := by
    cases l with
    | false => rfl
    | true => exact hl rfl
  have hdecode : decode s.cfg.hasLanes (encode (.hash l)) = .ok (.hash l) :=
    (wordDecodesIffCommandWord _ _ _).mpr ⟨hwf, rfl⟩
  rw [step_cmdWrite hr hp, issueWord_of_decode (s := { s with pending := rest }) hdecode]
  exact ⟨_, exec_hash_readable (s := { s with pending := rest }) h, rfl, rfl, rfl, status_hashDone, hashDone_result⟩

/-- From a completed hash, a read of STATUS and one of RESULT. -/
theorem run_status_result (hr : s.inReset = false) (hstatus : status s = 0x00000003#32)
    (hp : s.pending = windowRead s 0x04 :: windowRead s 0x24 :: rest) :
    ∃ t u, Host.Core.run core 1 s = .next t ∧ t.readData = some 0x00000003#32 ∧
      Host.Core.run core 2 s = .next u ∧ u.readData = some s.result := by
  have hread := step_windowRead (r := .status) hr hp rfl
  rw [readReg, hstatus] at hread
  exact ⟨_, _, core_run_succ hread, rfl,
    (core_run_succ hread).trans (core_run_succ (step_windowRead (r := .result) hr rfl rfl)), rfl⟩

/-- Settles O43: the writes leave the input configured, HASH completes it, and the reads return STATUS and RESULT. -/
theorem callingSequenceReturnsHash : Obligations.CallingSequenceReturnsHash := by
  intro s a n seed data config rest l hr hidle hl hinput hperm hp
  have hstart : Configuring s a n seed _ config s :=
    ⟨hp, fun mv hmv => hperm.mem_iff.mp hmv, rfl, rfl, hr, hidle, .inl (hperm.mem_iff.mpr (by simp)),
      .inl (hperm.mem_iff.mpr (by simp)), .inl (hperm.mem_iff.mpr (by simp))⟩
  obtain ⟨u, ⟨hpend, -, hc, hv, hru, -, hbase, hlen, hseed⟩, hrun⟩ := hstart.run
  obtain rfl : u.base = a := hbase.resolve_left List.not_mem_nil
  obtain rfl : u.len = n := hlen.resolve_left List.not_mem_nil
  obtain rfl : u.seed = seed := hseed.resolve_left List.not_mem_nil
  have hread : InputIs u data := by rwa [InputIs, hv]
  simp only [List.nil_append, cmdWrite, windowRead, ← hc] at hpend
  obtain ⟨v, hhash, hcv, hrv, hpv, hstatus, hresult⟩ := step_hash hread hru (hc ▸ hl) hpend
  have hdone (k : Nat) : Host.Core.run core (k + 1 + 3) s = Host.Core.run core k v := by
    rw [← core_run_succ hhash, ← hrun, hperm.length_eq]
    rfl
  rw [← hcv] at hpv
  obtain ⟨t, t', hfirst, hstat, hsecond, hres⟩ := run_status_result (hrv.trans hru) hstatus hpv
  exact ⟨t, t', (hdone 1).trans hfirst, hstat, (hdone 2).trans hsecond, hres.trans (congrArg some hresult)⟩

end Sys2Proof.Machine
end

section
/-! SUPPORT. The error record (spec/60_exceptions.md R186 to R191): a command's body keeps it or raises one of the command's own
errors, so a failing command only records its error; while an error is recorded, INIT, HASH and reset alone clear it. -/

namespace Sys2Proof.Machine

variable {s t : State} {w : Word} {i : Instr} {mv : HostMove} {body : State → Except Raised State}

/-- Settles O9: with an empty queue the step answers the state it is in. -/
theorem noStepBetweenAccesses : Obligations.NoStepBetweenAccesses := fun _ => step_of_no_move

/-! ## What the bodies make of the error record -/

/-- The error record of `t` is that of `s`. -/
def SameRecord (s t : State) : Prop :=
  t.err = s.err ∧ t.errCode = s.errCode ∧ t.errInfo = s.errInfo ∧ t.errAddr = s.errAddr

/-- No error is recorded (R180, row NONE). -/
def NoRecord (s : State) : Prop := s.err = false ∧ s.errCode = .none ∧ s.errInfo = 0#32 ∧ s.errAddr = 0#32

theorem SameRecord.refl (s : State) : SameRecord s s := ⟨rfl, rfl, rfl, rfl⟩

theorem SameRecord.noRecord (h : SameRecord s t) (hs : NoRecord s) : NoRecord t := by
  obtain ⟨herr, hcode, hinfo, haddr⟩ := h
  rwa [NoRecord, herr, hcode, hinfo, haddr]

/-- The body of a command with word `w` keeps the error record where it succeeds, and fails with an error of that command. -/
structure CommandBody (w : Word) (body : State → Except Raised State) : Prop where
  ok : ∀ {s t}, body s = .ok t → SameRecord s t
  error : ∀ {s r}, body s = .error r → CommandError w r

theorem commandBody_chunk (w : Word) : CommandBody w (chunkBody w) where
  ok h := by
    obtain ⟨-, -, bytes, -, rfl⟩ := chunkBody_ok h
    exact .refl _
  error h := (chunkBody_error h).commandError

theorem commandBody_lane4 (w : Word) : CommandBody w (lane4Body w) where
  ok h := by
    obtain ⟨-, -, bytes, -, rfl⟩ := lane4Body_ok h
    exact .refl _
  error h := (lane4Body_error h).commandError

theorem commandBody_tail (w : Word) : CommandBody w (tailBody w) where
  ok h := by
    obtain ⟨-, ⟨-, rfl⟩ | ⟨-, -, bytes, -, rfl⟩⟩ := tailBody_ok h <;> exact .refl _
  error := tailBody_commandError

theorem commandBody_final (w : Word) : CommandBody w (finalBody w) where
  ok h := by
    obtain ⟨-, rfl⟩ := finalBody_ok h
    exact .refl _
  error := finalBody_commandError

/-! ## A failing command (R187) -/

theorem CommandBody.recorded (hbody : CommandBody w body) (he : s.err = false) (h : runUnlessErr body s = .next t)
    (ht : t.err = true) : ∃ r, CommandError w r ∧ t = raiseError r s := by
  rcases runUnlessErr_cases_of_no_err h he with hb | ⟨r, hb, rfl⟩
  · obtain ⟨herr, -⟩ := hbody.ok hb
    exact absurd (ht.symm.trans (herr.trans he)) nofun
  · exact ⟨r, hbody.error hb, rfl⟩

theorem exec_failed (hi : ∀ l, i ≠ .hash l) (he : s.err = false) (h : exec i s = .next t) (ht : t.err = true) :
    ∃ r, CommandError (encode i) r ∧ t = raiseError r s := by
  cases i with
  | nop => cases h; exact absurd (ht.symm.trans he) nofun
  | init => cases h; exact absurd ht nofun
  | chunk => exact (commandBody_chunk _).recorded he h ht
  | lane4 => exact (commandBody_lane4 _).recorded he h ht
  | tail => exact (commandBody_tail _).recorded he h ht
  | final => exact (commandBody_final _).recorded he h ht
  | hash l => exact absurd rfl (hi l)

/-- Settles O20: a failing command ends in `raiseError`, with an error of its own. -/
theorem failingCommandOnlyRecords : Obligations.FailingCommandOnlyRecords := by
  intro i s t hi he h ht
  obtain ⟨r, hr, rfl⟩ := exec_failed hi he h ht
  rw [raiseError_of_no_err r s he]
  exact ⟨hr.code, hr.addr, by rw [hr.info]⟩

/-! ## While an error is recorded (R188) -/

theorem runUnlessErr_of_err (body : State → Except Raised State) (he : s.err = true) : runUnlessErr body s = .next s := by
  simp [runUnlessErr, he]

theorem exec_of_err (he : s.err = true) (hinit : i ≠ .init) (hhash : ∀ l, i ≠ .hash l) : exec i s = .next s := by
  cases i with
  | nop => rfl
  | init => exact absurd rfl hinit
  | hash l => exact absurd rfl (hhash l)
  | chunk | lane4 | tail | final => exact runUnlessErr_of_err _ he

theorem startHash_clearError (s : State) : startHash (clearError s) = startHash s := rfl

/-- Settles O21: the commands that mind ERR are ignored, INIT and HASH begin by clearing the record, the first error is kept,
and no hash is in progress that would lock the configuration. -/
theorem recordedErrorBlocksCommands : Obligations.RecordedErrorBlocksCommands := by
  intro s he
  refine ⟨fun i hi => ?_, fun i hi => ?_, fun w rest hr hp hw => ?_, fun v rest hr => ?_⟩
  · rcases hi with rfl | rfl | rfl | rfl | rfl <;> exact exec_of_err he nofun nofun
  · rcases hi with rfl | ⟨l, rfl⟩
    · rw [exec_init, exec_init, startHash_clearError]
    · rw [exec_hash, exec_hash, startHash_clearError]
  · rw [step_illegalWrite hr hp hw, raiseError_of_err _ { s with pending := rest } he]
  · obtain ⟨-, hstored⟩ := configurationLock s v rest hr
    exact hstored (.inl he)

/-! ## What clears an error (R190) -/

/-- No error is recorded, or one with the word `w`. -/
def RecordsOnly (w : Word) (t : State) : Prop := NoRecord t ∨ (t.err = true ∧ t.errInfo = w)

/-- HASH's sub-steps raise their errors with HASH's own word (R187). -/
theorem hashSteps_recordsOnly {l : Bool} (hs : NoRecord s) : RecordsOnly w (endState (hashSteps l w s)) := by
  refine hashSteps_ends
    (fun _ s t hs hb => ((commandBody_lane4 w).ok hb).noRecord hs)
    (fun s t hs hb => ((commandBody_chunk w).ok hb).noRecord hs)
    (fun s t hs hb => ((commandBody_tail w).ok hb).noRecord hs)
    (fun s t hs hb => .inl (((commandBody_final w).ok hb).noRecord hs)) (fun s r hs hb => ?_) hs
  have hr : CommandError w r := by
    rcases hb with hb | hb | hb | hb
    · exact (commandBody_lane4 w).error hb
    · exact (commandBody_chunk w).error hb
    · exact (commandBody_tail w).error hb
    · exact (commandBody_final w).error hb
  obtain ⟨he, -⟩ := hs
  rw [raiseError_of_no_err r s he]
  exact .inr ⟨rfl, hr.info⟩

/-- HASH leaves no error recorded, or a VIEW_FAULT of its own: the only way it ends short of DONE (R191). -/
theorem execHash_record {l : Bool} (h : execHash l s = .next t) :
    NoRecord t ∨ (t.err = true ∧ t.errCode = .viewFault ∧ t.errInfo = encode (.hash l)) := by
  have hend := execHash_hashEnd h
  cases h
  have hstart : NoRecord (startHash s) := ⟨rfl, rfl, rfl, rfl⟩
  rcases hashSteps_recordsOnly (l := l) (w := encode (.hash l)) hstart with hclear | ⟨he, hinfo⟩
  · exact .inl hclear
  · rcases hend with ⟨-, hno⟩ | ⟨-, hcode⟩
    · exact absurd (he.symm.trans hno) nofun
    · exact .inr ⟨he, hcode, hinfo⟩

/-- The record after a write of INIT's or HASH's word `w`: clear, or HASH's own VIEW_FAULT. -/
def ClearedByWord (w : Word) (t : State) : Prop :=
  (w = encode .init ∨ ∃ l, w = encode (.hash l)) ∧ (w = encode .init → t.err = false) ∧
    (t.err = false → t.errCode = .none ∧ t.errInfo = 0#32 ∧ t.errAddr = 0#32) ∧
    (t.err = true → t.errCode = .viewFault ∧ t.errInfo = w)

theorem clearedByWord_init (s : State) : ClearedByWord (encode .init) (startHash s) :=
  ⟨.inl rfl, fun _ => rfl, fun _ => ⟨rfl, rfl, rfl⟩, nofun⟩

theorem clearedByWord_hash {l : Bool} (h : execHash l s = .next t) : ClearedByWord (encode (.hash l)) t := by
  refine ⟨.inr ⟨l, rfl⟩, fun hw => absurd (encode_injective hw) nofun, ?_⟩
  rcases execHash_record h with ⟨he, hrecord⟩ | ⟨he, hown⟩
  · exact ⟨fun _ => hrecord, fun ht => absurd (ht.symm.trans he) nofun⟩
  · exact ⟨fun ht => absurd (ht.symm.trans he) nofun, fun _ => hown⟩

theorem exec_record (he : s.err = true) (h : exec i s = .next t) : SameRecord s t ∨ ClearedByWord (encode i) t := by
  cases i with
  | init => cases h; exact .inr (clearedByWord_init s)
  | hash l => exact .inr (clearedByWord_hash h)
  | nop | chunk | lane4 | tail | final =>
    cases h.symm.trans (exec_of_err he nofun nofun)
    exact .inl (.refl s)

/-- From a recorded error, each effect of a move keeps the record, or is the reset, or is INIT's or HASH's. -/
theorem moveEffect_record (he : s.err = true) (h : MoveEffect s mv t) :
    SameRecord s t ∨ (mv = .assertReset ∧ NoRecord t) ∨ ∃ w, mv = cmdWrite s w ∧ ClearedByWord w t := by
  cases h with
  | read | ignored | releaseReset | setView => exact .inl (.refl s)
  | stored _ _ hu => cases hu <;> exact .inl (.refl s)
  | illegal | locked => rw [raiseError_of_err _ s he]; exact .inl (.refl s)
  | assertReset => exact .inr (.inl ⟨rfl, rfl, rfl, rfl, rfl⟩)
  | command _ hd hexec =>
    obtain ⟨-, rfl⟩ := (wordDecodesIffCommandWord _ _ _).mp hd
    exact (exec_record he hexec).imp_right fun hclear => .inr ⟨_, rfl, hclear⟩

/-- Settles O22: an idle step and every effect of a move keep the record, but for those of reset, INIT and HASH. -/
theorem onlyInitHashAndResetClearErrors : Obligations.OnlyInitHashAndResetClearErrors := by
  intro s t he h
  rcases step_cases h with ⟨-, rfl⟩ | ⟨mv, rest, hp, heffect⟩
  · exact .inl ⟨he, rfl, rfl, rfl⟩
  · rcases moveEffect_record (s := { s with pending := rest }) he heffect with
      ⟨herr, hkept⟩ | ⟨rfl, hclear⟩ | ⟨w, rfl, hclear⟩
    · exact .inl ⟨herr.trans he, hkept⟩
    · exact .inr (.inl ⟨rest, hp, hclear⟩)
    · exact .inr (.inr ⟨w, rest, hp, hclear⟩)

end Sys2Proof.Machine
end

section
/-! SUPPORT. Reset (spec/70_reset_and_hazards.md R210, R212): asserting it gives the registers their reset values, and while
it is asserted no move changes them, since every host access is refused. -/

namespace Sys2Proof.Machine

variable {s t : State} {mv : HostMove} {rest : List HostMove}

/-! ## The reset values -/

theorem registersReset_resetRegisters (s : State) : RegistersReset (resetRegisters s) := by
  simp [RegistersReset]

/-- The reset state is one that the reset of the registers leaves as it is. -/
theorem registersReset_reset : RegistersReset State.reset := registersReset_resetRegisters State.reset

theorem RegistersReset.status (h : RegistersReset s) : status s = 0x00000000#32 := by
  obtain ⟨-, -, -, -, -, -, -, -, -, -, -, -, -, -, hphase, herr, hcode⟩ := h
  rw [status_of_no_error hcode herr, hphase]
  rfl

theorem step_assertReset (hp : s.pending = .assertReset :: rest) :
    step s = .next { resetRegisters s with inReset := true, pending := rest } :=
  step_of_move hp

/-! ## While reset is asserted -/

theorem admitAccess_in_reset {addr size : Nat} (hr : s.inReset = true) :
    admitAccess s addr size = .error .accessDuringReset := by
  simp [admitAccess, hr]

/-- The moves that write a register need reset released, but for the reset itself. -/
theorem moveEffect_holds_reset (hr : s.inReset = true) (hreset : RegistersReset s) (h : MoveEffect s mv t) :
    RegistersReset t := by
  cases h with
  | read hopen | ignored hopen | command hopen | illegal hopen | locked hopen | stored hopen =>
    exact absurd (hr.symm.trans hopen) nofun
  | assertReset => exact registersReset_resetRegisters s
  | releaseReset | setView => exact hreset

theorem step_holds_reset (hr : s.inReset = true) (hreset : RegistersReset s) (h : step s = .next t) :
    RegistersReset t := by
  rcases step_cases h with ⟨-, rfl⟩ | ⟨mv, rest, -, heffect⟩
  · exact hreset
  · exact moveEffect_holds_reset (s := { s with pending := rest }) hr hreset heffect

/-! ## The statements -/

/-- Settles O1: the two ways to a reset state reset every register, a step holds the values while reset is asserted, and
INIT's effect is `startHash`, which keeps the configuration. -/
theorem resetClearsEveryRegister : Obligations.ResetClearsEveryRegister := by
  refine ⟨fun s hs => ?_, fun s₀ rest hp => ⟨_, step_assertReset hp, rfl, rfl, rfl, rfl⟩,
    fun _ _ => step_holds_reset, fun s t h => ?_⟩
  · have hreset : RegistersReset s := by
      rcases hs with rfl | ⟨s₀, rest, hp, hstep⟩
      · exact registersReset_reset
      · cases (step_assertReset hp).symm.trans hstep
        exact registersReset_resetRegisters s₀
    exact ⟨hreset, hreset.status⟩
  · cases (exec_init s).symm.trans h
    exact ⟨rfl, rfl, rfl⟩

/-- Settles O4: the admission of an access looks at the reset input first, and the release writes that input alone. -/
theorem accessDuringResetIsRefused : Obligations.AccessDuringResetIsRefused := by
  refine ⟨fun s rest addr size v hr hp => ?_, fun s rest hp => step_of_move hp⟩
  have hrefused : admitAccess { s with pending := rest } addr size = .error .accessDuringReset :=
    admitAccess_in_reset hr
  rcases hp with hp | hp <;> rw [step_of_move hp]
  · exact hostRead_refused hrefused
  · exact hostWrite_refused hrefused

end Sys2Proof.Machine
end
